-- ==== Sys2Proof/Word.lean ====
section
/-! DEFINITION. The widths of the DLT4256: bytes, 16-bit values, tokens, and how a wider value is
joined from bytes, most significant byte first (spec/00_scope.md, Conventions; R186). -/

namespace Sys2Proof

/-- One byte on a link. -/
abbrev Byte := BitVec 8

/-- A two-byte value: a duration, a wait limit, a count of ticks, a divider, a cursor (R186). -/
abbrev Word := BitVec 16

/-- The 16-bit number that names a shared thing; 0 is not a tag (R1). -/
abbrev Tag := BitVec 16

/-- A client number, carried in every request frame (R154). -/
abbrev Client := BitVec 8

/-- The generation of a lease slot or a wait slot, 1 to 255 once allocated (R19, R41). -/
abbrev Generation := BitVec 8

/-- A fence token: the epoch in the upper 16 bits, the serial in the lower 24 (R83). -/
abbrev Token := BitVec 40

/-- The token of an epoch and a serial (R83). -/
def Token.make (epoch : BitVec 16) (serial : BitVec 24) : Token := epoch ++ serial

/-- The slot of a lease in the lease table (R16). -/
abbrev LeaseSlot := Fin 256

/-- The slot of a wait in the wait table (R40). -/
abbrev WaitSlot := Fin 128

/-- One of the 24 write-once pin slots (R102). -/
abbrev PinSlot := Fin 24

end Sys2Proof
end

