-- ==== Sys2Proof/Syntax.lean ====
section
/-! DEFINITION. The commands of the part: one constructor of `Instr` for each row of
spec/opcode_table.json, with the operands that the world outside the table engine gives it. -/

namespace Sys2Proof

/-- The four host links; A is the administrative link (R159, R175). -/
inductive Link where
  | a | b | c | d
deriving DecidableEq, Repr

/-- One value for each link. -/
structure PerLink (α : Type) where
  a : α
  b : α
  c : α
  d : α
deriving DecidableEq, Repr

/-- One of the lease clock's 384 countdowns (R69). -/
inductive CountdownName where
  | lease (slot : LeaseSlot)
  | wait (slot : WaitSlot)
deriving DecidableEq, Repr

/-- A stretch of one select window: whether it begins with select falling, the bytes completed in it,
and whether it ends with select rising (R161). DESIGN CHOICE (entry 8): a window may be given in
several segments, so that other commands can fall inside it. -/
structure Segment where
  falls : Bool
  bytes : List Byte
  rises : Bool
deriving DecidableEq, Repr

/-- A window given in one segment. -/
def Segment.whole (bytes : List Byte) : Segment := ⟨true, bytes, true⟩

/-- How a programming step of the store ended (R100). -/
inductive StepResult where
  | good | failed
deriving DecidableEq, Repr

/-- How far the store operation in progress had come when RESET# fell (R110). The rows of R110's table,
with the readings each row allows; a tear that does not fit the operation leaves the cells as they
stand. -/
inductive Tear where
  /-- Nothing in progress, or a pin operation whose first step has not begun: the cells are untouched. An
  advance's begin step begins with it (entry 21), so a started advance keeps its partial begin mark. -/
  | asTheyStand
  /-- ADVANCE, in its begin step: the begin mark is partial, or complete when so flagged. -/
  | advanceBegin (complete : Bool)
  /-- ADVANCE, in its done step: the begin mark is complete, the done mark partial or complete. -/
  | advanceDone (complete : Bool)
  /-- PIN_WRITE, in its data step: the data are partial. -/
  | writeData
  /-- PIN_WRITE, data complete: the valid mark is blank, or partial when its step had begun. -/
  | writeValid (begun : Bool)
  /-- PIN_WRITE, in the void step after a failure of the data step or (data complete) the valid step:
  the void mark is partial, or complete when so flagged. -/
  | writeVoid (dataComplete complete : Bool)
  /-- PIN_VOID, in its void step: the void mark is partial, or complete when so flagged. -/
  | voidMark (complete : Bool)
deriving DecidableEq, Repr

/-- How far the engine serves the request it has taken. R156 lets a host fetch a notice of an item whose
response is not yet queued; DESIGN CHOICE (entry 5): the same row, given again, then queues the
response. -/
inductive Extent where
  /-- To the end of the item: the response joins its queue, and the engine is free. -/
  | toItsEnd
  /-- Up to the response: every claim and every post is made, and the response is held back. -/
  | toItsResponse
deriving DecidableEq, Repr

/-- The commands: one constructor for each row of spec/opcode_table.json. A request or an internal item
that the table engine serves has its operands in the state (the item in service), as R149 and R150
give; an event from outside has them here. A request row says how far it serves the request; left out, to
its end. -/
inductive Instr where
  /-- DEVICE_RESET (R144): RESET# falls, or power is applied. -/
  | deviceReset (tear : Tear)
  /-- RESET_RELEASE (R111): RESET# rises; `low` says whose select is low at that moment (R160). -/
  | resetRelease (low : PerLink Bool)
  /-- START_UP_LOAD (R111): the load's reading of the store ends. -/
  | startUpLoad
  /-- TICK (R73): a tick interval ends. -/
  | tick
  /-- COUNTDOWN_REACHES_ZERO (R73, R74): the clock appends the item of a countdown that has run out. -/
  | countdownReachesZero (name : CountdownName)
  /-- REQUEST_FRAME (R162): a stretch of a request window. -/
  | requestFrame (link : Link) (window : Segment)
  /-- STATUS_READ (R161): a window with exactly one complete byte. -/
  | statusRead (link : Link) (byte : Byte)
  /-- FETCH_RESPONSE (R166): a stretch of a window whose code is 0xA0. -/
  | fetchResponse (link : Link) (window : Segment)
  /-- FETCH_DISCARD_RESPONSE (R167): a stretch of a window whose code is 0xA1. -/
  | fetchDiscardResponse (link : Link) (window : Segment)
  /-- FETCH_NOTICE (R137): a stretch of a window whose code is 0xA8. -/
  | fetchNotice (link : Link) (window : Segment)
  /-- FETCH_DISCARD_NOTICE (R138): a stretch of a window whose code is 0xA9. -/
  | fetchDiscardNotice (link : Link) (window : Segment)
  /-- ACQUIRE (R22): the engine serves the ACQUIRE it has taken. -/
  | acquire (extent : Extent := .toItsEnd)
  /-- RENEW (R31). -/
  | renew (extent : Extent := .toItsEnd)
  /-- RELEASE (R33). -/
  | release (extent : Extent := .toItsEnd)
  /-- DOWNGRADE (R36). -/
  | downgrade (extent : Extent := .toItsEnd)
  /-- CANCEL (R57). -/
  | cancel (extent : Extent := .toItsEnd)
  /-- QUERY (R14). -/
  | query (extent : Extent := .toItsEnd)
  /-- CHECK (R97). -/
  | check (extent : Extent := .toItsEnd)
  /-- LIST (R38). -/
  | list (extent : Extent := .toItsEnd)
  /-- DETACH (R179). -/
  | detach (extent : Extent := .toItsEnd)
  /-- LINK-CONFIG (R173). -/
  | linkConfig (extent : Extent := .toItsEnd)
  /-- STATUS (R174). -/
  | status (extent : Extent := .toItsEnd)
  /-- CAPS (R185). -/
  | caps (extent : Extent := .toItsEnd)
  /-- PIN-TABLE (R128). -/
  | pinTable (extent : Extent := .toItsEnd)
  /-- PIN (R118). -/
  | pin (extent : Extent := .toItsEnd)
  /-- UNPIN (R122). -/
  | unpin (extent : Extent := .toItsEnd)
  /-- REVOKE (R176). -/
  | revoke (extent : Extent := .toItsEnd)
  /-- FORCE-DETACH (R180). -/
  | forceDetach (extent : Extent := .toItsEnd)
  /-- SET-TICK (R68). -/
  | setTick (extent : Extent := .toItsEnd)
  /-- CLEAR (R182). -/
  | clear (extent : Extent := .toItsEnd)
  /-- UNKNOWN_REQUEST (R153): the engine serves a frame whose code is no request code. -/
  | unknownRequest (extent : Extent := .toItsEnd)
  /-- ADVANCE (R107): the store ends an advance; the done step counts only after a good begin step. -/
  | advance (beginStep doneStep : StepResult)
  /-- PIN_WRITE (R108): the store ends a pin write; the void step runs only after a failure. -/
  | pinWrite (dataStep validStep voidStep : StepResult)
  /-- PIN_VOID (R109): the store ends a pin void. -/
  | pinVoid (voidStep : StepResult)
  /-- PENDING_ADVANCE_START (R104): the controller starts the advance held pending. -/
  | pendingAdvanceStart
  /-- EXPIRY (R77): the engine serves the expiry item it has taken. -/
  | expiry
  /-- TIMEOUT (R79). -/
  | timeout
  /-- LOAD_COMPLETION (R114). -/
  | loadCompletion
  /-- ADVANCE_COMPLETION (R87, R88). -/
  | advanceCompletion
  /-- PIN_WRITE_COMPLETION (R119, R120). -/
  | pinWriteCompletion
  /-- PIN_VOID_COMPLETION (R123, R124). -/
  | pinVoidCompletion
  /-- SELECT_RISE_AFTER_RESET (R160): select rises on a link whose select was low when RESET# rose. -/
  | selectRiseAfterReset (link : Link)
deriving DecidableEq, Repr

end Sys2Proof
end

