-- ==== Sys2Proof/Decode.lean ====
section
/-! DEFINITION. What a word of spec/opcode_table.json spells. The part fetches no instructions and the
table gives no row any bits ("fields" is empty in every row), so no word spells a command. Request
codes and frame layouts (R188) are read by Machine/Operands.lean and Machine/Formats.lean. -/

namespace Sys2Proof

/-- The command a word of `nbits` bits spells by the table's bits: none, for every word. -/
def decodeTableWord (_nbits _w : Nat) : Option Instr := none

end Sys2Proof
end

