-- ==== Sys2Proof/Config.lean ====
section
/-! DEFINITION. The fixed capacities and settings of the part (spec/00_scope.md, Capacities at a
glance; R185), and the one value the spec leaves open. -/

namespace Sys2Proof.Config

/-- Resource records of the directory (R2). -/
def resourceRecords : Nat := 256

/-- Lease slots (R18). -/
def leaseRecords : Nat := 256

/-- Wait slots (R41). -/
def waitRecords : Nat := 128

/-- Pin slots of the store (R102). -/
def pinSlots : Nat := 24

/-- Depth of each notice queue, stored and reserved together (R130). -/
def noticeDepth : Nat := 32

/-- Depth of each response queue (R148). -/
def responseDepth : Nat := 8

/-- Depth of each request FIFO (R164). -/
def fifoDepth : Nat := 4

/-- Entries of a lease set (R21). -/
def tagsPerLease : Nat := 4

/-- Epoch steps over the life of the part (R101). -/
def epochSteps : Nat := 65535

/-- Largest payload of a request frame (R162). -/
def maxPayload : Nat := 24

/-- Both dividers after device reset (R66). -/
def resetDivider : Word := 19

/-- The largest divider SET-TICK accepts (R68). -/
def maxDivider : Word := 1999

/-- The wait limit that means no limit (R40). -/
def unlimited : Word := 65535

/-- The tick base in µs, as CAPS reports it (R185). -/
def tickBase : Nat := 50

/-- The width of a token in bits, as CAPS reports it (R185). -/
def tokenWidth : Nat := 40

/-- The number of links, as CAPS reports it (R185). -/
def links : Nat := 4

/-- What a link drives on DOUT while its select has been low since before RESET# rose: R159 has DOUT driven
while select is low, and no rule states the bits, since R160 takes that low for no window. A FREE VALUE
(entry 31), one for each reset and link; nothing constrains it. -/
opaque outputOutsideWindow : Nat → Link → Byte

end Sys2Proof.Config
end

