-- ==== Sys2Proof/Machine/State.lean ====
section
/-! DEFINITION. Everything the spec gives the part to hold, as plain data, and its value right after
device reset. Each structure cites the rule that lists its fields; INVENTORY.md lists them all. -/

namespace Sys2Proof.Machine

/-! ### Tags, leases, waits (chapters 1 to 3) -/

/-- The kind of claim on one tag (R1). -/
inductive Mode where
  | shared | exclusive
deriving DecidableEq, Repr

/-- One (tag, mode) entry of a lease set (R21). -/
structure Entry where
  tag : Tag
  mode : Mode
deriving DecidableEq, Repr

/-- The link and client that hold a lease or made a wait (R154). -/
structure Owner where
  link : Link
  client : Client
deriving DecidableEq, Repr

/-- The name of a lease: slot and generation (R16). -/
structure LeaseHandle where
  slot : LeaseSlot
  gen : Generation
deriving DecidableEq, Repr

/-- The name of a wait: slot and generation (R40). -/
structure WaitId where
  slot : WaitSlot
  gen : Generation
deriving DecidableEq, Repr

/-- The state of a lease (R16, R17). -/
inductive LeaseState where
  | active | pinning | pinned | unpinning
deriving DecidableEq, Repr

/-- A lease record (R16); its slot is its place in the lease table, and its duration is absent for a
lease born of a pin. -/
structure Lease where
  gen : Generation
  owner : Owner
  set : List Entry
  token : Token
  duration : Option Word
  state : LeaseState
deriving DecidableEq, Repr

/-- A wait record (R40); its slot is its place in the wait table. -/
structure Wait where
  gen : Generation
  owner : Owner
  set : List Entry
  duration : Word
  limit : Word
deriving DecidableEq, Repr

/-- One entry of a tag's holder list: the lease's slot and the mode it holds on the tag (R3). -/
structure Holder where
  slot : LeaseSlot
  mode : Mode
deriving DecidableEq, Repr

/-- The pin state of a resource record (R9). -/
inductive PinState where
  | unpinned
  | pinning (slot : PinSlot)
  | pinned (slot : PinSlot)
  | unpinning (slot : PinSlot)
deriving DecidableEq, Repr

/-- A resource record (R3). -/
structure Record where
  tag : Tag
  holders : List Holder
  queue : List WaitSlot
  lastToken : Token
  pin : PinState
deriving DecidableEq, Repr

/-- The empty record of a tag: how a tag without a record is seen, and how a new one starts (R2, R10). -/
def Record.fresh (tag : Tag) : Record := ⟨tag, [], [], 0, .unpinned⟩

/-! ### The lease clock (chapter 4) -/

/-- A countdown (R69). -/
structure Countdown where
  running : Bool
  value : Word
  gen : Generation
  mark : Bool
deriving DecidableEq, Repr

/-- Every countdown after device reset (R69). -/
def Countdown.reset : Countdown := ⟨false, 0, 0, false⟩

/-! ### The token unit (chapter 5) -/

/-- The states of the token unit (R84). -/
inductive UnitState where
  | unarmed | advancing | ready | fault | exhausted
deriving DecidableEq, Repr

/-- The token unit (R84). -/
structure TokenUnit where
  state : UnitState
  epoch : BitVec 16
  serial : BitVec 24
deriving DecidableEq, Repr

/-- The token unit after device reset (R84). -/
def TokenUnit.reset : TokenUnit := ⟨.unarmed, 0, 0⟩

/-! ### The nonvolatile store (chapter 6) -/

/-- What a pin records: its tag and its owner (R102). -/
structure PinData where
  tag : Tag
  owner : Owner
deriving DecidableEq, Repr

/-- How a mark's cells read (R100); `partly` is the condition the spec calls partial. -/
inductive Mark where
  | blank | partly | complete
deriving DecidableEq, Repr

/-- The format byte of a pin slot's data, as the load's check sees it (R102). DESIGN CHOICE (entry 14):
the spec gives the byte no value, so the model holds whether it reads as written. -/
inductive FormatByte where
  | asWritten | otherwise
deriving DecidableEq, Repr

/-- How the data cells of a pin slot read (R100, R102). -/
inductive DataCells where
  | blank
  | partly
  | complete (format : FormatByte) (data : PinData) (check : BitVec 16)
deriving DecidableEq, Repr

/-- The two marks of an epoch step (R101). -/
structure EpochMarks where
  beginMark : Mark
  doneMark : Mark
deriving DecidableEq, Repr

/-- The cells of a pin slot (R102). -/
structure PinCells where
  data : DataCells
  valid : Mark
  void : Mark
deriving DecidableEq, Repr

/-- A pin slot never written. -/
def PinCells.blank : PinCells := ⟨.blank, .blank, .blank⟩

/-- The nonvolatile cells, kept by device reset (R100 to R103). `epochs` lists the epoch steps that are
not blank, step numbers strictly rising; every unlisted step reads blank in both marks. -/
structure Cells where
  epochs : List (Nat × EpochMarks)
  pins : Vector PinCells 24
  serial : BitVec 96
deriving DecidableEq, Repr

/-- The states of a slot in the controller's slot table (R102). -/
inductive SlotState where
  | blank | writing | active | void
deriving DecidableEq, Repr

/-- One entry of the slot table: state, data and the data-shown flag (R102). -/
structure SlotEntry where
  state : SlotState
  data : PinData
  shown : Bool
deriving DecidableEq, Repr

/-- A slot table entry before the load. DESIGN CHOICE (entry 15): the spec gives no value. -/
def SlotEntry.reset : SlotEntry := ⟨.blank, ⟨0, ⟨.a, 0⟩⟩, false⟩

/-- The states of the store controller; a BUSY state records its step or slot (R104). -/
inductive Controller where
  | loading
  | idle
  | busyAdvance (step : Nat)
  | busyPinWrite (slot : PinSlot)
  | busyPinVoid (slot : PinSlot)
deriving DecidableEq, Repr

/-- The store controller's own state (R101 to R104). -/
structure Store where
  controller : Controller
  pendingAdvance : Bool
  begun : Nat
  slots : Vector SlotEntry 24
  serial : BitVec 96
deriving DecidableEq, Repr

/-- The controller after device reset: LOADING with the flag clear (R104); the rest is set by the load
(DESIGN CHOICE, entry 15). -/
def Store.reset : Store := ⟨.loading, false, 0, Vector.replicate 24 .reset, 0⟩

/-- The two kinds of pin operation (R116). -/
inductive PinOpKind where
  | write | void
deriving DecidableEq, Repr

/-- One entry of the list of pin operations in flight (R116). -/
structure PinOp where
  kind : PinOpKind
  slot : PinSlot
  tag : Tag
  owner : Owner
  leaseSlot : LeaseSlot
  client : Client
deriving DecidableEq, Repr

/-! ### Notices (chapter 8) -/

/-- Why every wait was aborted (R60). -/
inductive AbortReason where
  | tokenFault | exhausted
deriving DecidableEq, Repr

/-- A notice record: its kind, the client it concerns and the kind's contents (R135). -/
inductive Notice where
  | granted (client : Client) (wait : WaitId) (lease : LeaseHandle) (token : Token)
      (duration : Word) (set : List Entry)
  | waitTimeout (client : Client) (wait : WaitId)
  | waitAborted (client : Client) (wait : WaitId) (reason : AbortReason)
  | expired (client : Client) (lease : LeaseHandle) (token : Token)
  | revoked (client : Client) (lease : LeaseHandle) (token : Token) (tag : Tag)
  | pinned (client : Client) (tag : Tag) (slot : PinSlot)
  | pinReleased (client : Client) (tag : Tag) (slot : PinSlot)
  | pinDone (client : Client) (slot : PinSlot) (tag : Tag)
  | pinFailed (client : Client) (slot : PinSlot) (tag : Tag)
  | unpinDone (client : Client) (slot : PinSlot) (tag : Tag)
  | unpinFailed (client : Client) (slot : PinSlot) (tag : Tag)
  | detached (client : Client) (leases waits : Nat)
  | cleared (client : Client)
deriving DecidableEq, Repr

/-- A notice queue (R129); the stored count S is the length of `stored`, and `presented` is the mark of
its head. -/
structure NoticeQueue where
  stored : List Notice
  reserved : Nat
  lost : BitVec 8
  presented : Bool
deriving DecidableEq, Repr

/-- A notice queue after device reset (R129). -/
def NoticeQueue.reset : NoticeQueue := ⟨[], 0, 0, false⟩

/-! ### Links (chapter 10) -/

/-- A request frame as the FIFO holds it; L is the length of the payload (R162). -/
structure Frame where
  code : Byte
  seq : Byte
  client : Client
  payload : List Byte
deriving DecidableEq, Repr

/-- The outcome of a response (R157). -/
inductive OutcomeCode where
  | done | granted | queued | accepted
  | badRequest | badParam | notAdmin | notReady | conflict | already | tableFull | leaseFull
  | waitFull | noteFull | pinned | pinPending | stale | notFound | tokenNotReady | tokenFault
  | exhausted | nvBusy | pinsFull | notFree
deriving DecidableEq, Repr

/-- The state of a tag as QUERY reports it (R13). -/
inductive TagState where
  | free | shared | exclusive | pinning | pinned | unpinning
deriving DecidableEq, Repr

/-- A holder entry of a QUERY result; `ticks` is none for a pinned lease (R15). -/
structure HolderView where
  owner : Owner
  mode : Mode
  ticks : Option Word
deriving DecidableEq, Repr

/-- The head waiter of a QUERY result (R15). -/
structure WaiterView where
  owner : Owner
  mode : Mode
deriving DecidableEq, Repr

/-- The result of QUERY (R14). -/
structure QueryResult where
  found : Bool
  state : TagState
  holderCount : Nat
  waiterCount : Nat
  lastToken : Token
  holders : List HolderView
  head : Option WaiterView
deriving DecidableEq, Repr

/-- An entry of a LIST result (R39); `ticks` is none for a lease that is not ACTIVE. -/
inductive ListEntry where
  | lease (handle : LeaseHandle) (client : Client) (state : LeaseState) (ticks : Option Word)
      (firstTag : Tag)
  | wait (id : WaitId) (client : Client) (entries : Nat) (ticks : Word) (firstTag : Tag)
deriving DecidableEq, Repr

/-- An entry of a PIN-TABLE result (R128); `data` is absent where R128 says so. -/
structure PinTableEntry where
  slot : PinSlot
  state : SlotState
  pin : PinState
  data : Option PinData
deriving DecidableEq, Repr

/-- A link's four attention settings (R173). -/
structure Settings where
  noticeAttention : Bool
  responseAttention : Bool
  responseLevel : Nat
  errorAttention : Bool
deriving DecidableEq, Repr

/-- What STATUS reports (R174). -/
structure StatusReport where
  ready : Bool
  errorFlag : Bool
  overrunSeen : Bool
  crcCount : BitVec 8
  frameCount : BitVec 8
  overrunCount : BitVec 8
  lost : BitVec 8
  responses : Nat
  stored : Nat
  reserved : Nat
  tokens : TokenUnit
  controller : Controller
  pendingAdvance : Bool
  remainingSteps : Nat
  blankSlots : Nat
deriving DecidableEq, Repr

/-- The payload of a response, by the outcome that carries it (R189). -/
inductive Payload where
  | empty
  | granted (lease : LeaseHandle) (token : Token) (duration : Word)
  | queued (wait : WaitId) (ahead : List Nat)
  | entry (position : Nat)
  | duration (ticks : Word)
  | divider (value : Word)
  | changed (entries : Nat)
  | query (result : QueryResult)
  | check (current : Bool) (lastToken : Token)
  | list (nextCursor : Word) (entries : List ListEntry)
  | pinTable (first : PinSlot) (nextSlot : Byte) (entries : List PinTableEntry)
  | removed (leases waits : Nat)
  | revoked (leases : Nat)
  | settings (now : Settings)
  | pin (slot : PinSlot) (tag : Tag)
  | status (report : StatusReport)
  | caps (remainingSteps blankSlots : Nat) (serial : BitVec 96)
deriving DecidableEq, Repr

/-- A response record (R155). -/
structure Response where
  code : Byte
  seq : Byte
  outcome : OutcomeCode
  payload : Payload
deriving DecidableEq, Repr

/-- What a link's receiver is doing (R160). -/
inductive Receiver where
  /-- Select is high. -/
  | idle
  /-- Select was low when RESET# rose, and is taken for no window until it rises (R160). -/
  | lowSinceReset
  /-- In a window: the status byte captured when it began, and the bytes received so far. -/
  | collecting (status : Byte) (bytes : List Byte)
  /-- In a fetch window with a good complement: the bytes of the presentation, how many of them and of
  the filler have been shifted out, and whether a record was taken that is still the head (R168, R169). -/
  | presenting (code : Byte) (stream : List Byte) (shifted : Nat) (isHead : Bool)
  /-- In a window whose frame error has been counted; its later bytes are ignored (R162, R166). -/
  | ignoring (code : Byte)
deriving DecidableEq, Repr

/-- A link's state, less its notice queue (R160). `dout` is the model's record of the bytes shifted out
in the window in progress or the last one (entry 10); what the pin shows is `State.output`. -/
structure LinkState where
  receiver : Receiver
  dout : List Byte
  fifo : List Frame
  responses : List Response
  presented : Bool
  settings : Settings
  crcCount : BitVec 8
  frameCount : BitVec 8
  overrunCount : BitVec 8
  errorFlag : Bool
deriving DecidableEq, Repr

/-- A link after device reset (R160). -/
def LinkState.reset : LinkState where
  receiver := .idle
  dout := []
  fifo := []
  responses := []
  presented := false
  settings := ⟨true, false, 1, true⟩
  crcCount := 0
  frameCount := 0
  overrunCount := 0
  errorFlag := false

/-! ### The table engine (chapter 9) -/

/-- An item of the internal work list (R73, R106). A load item carries the ACTIVE slots in slot order. -/
inductive WorkItem where
  | expiry (slot : LeaseSlot) (gen : Generation)
  | timeout (slot : WaitSlot) (gen : Generation)
  | load (begun : Nat) (active : List (PinSlot × PinData))
  | advance (step : Nat) (result : StepResult)
  | pinWrite (slot : PinSlot) (result : StepResult)
  | pinVoid (slot : PinSlot) (result : StepResult)
deriving DecidableEq, Repr

/-- The five sources of the arbiter (R148). -/
inductive Source where
  | internal
  | link (l : Link)
deriving DecidableEq, Repr

/-- What the engine has taken and is serving (R145, R149). -/
inductive Service where
  | request (link : Link) (frame : Frame)
  | internal (item : WorkItem)
  /-- A request whose claims and notices are made and whose response is not yet in its queue (R156). -/
  | answering (link : Link) (response : Response)
deriving DecidableEq, Repr

/-- The whole part, the queue of the commands that wait, and the count that names the free value of
R159 (entry 31). -/
structure State where
  resetLow : Bool
  links : PerLink LinkState
  notices : PerLink NoticeQueue
  loading : Bool
  arbiter : Source
  inService : Option Service
  workList : List WorkItem
  directory : List Record
  leases : Vector (Option Lease) 256
  leaseGens : Vector Generation 256
  waits : Vector (Option Wait) 128
  waitGens : Vector Generation 128
  creation : List WaitSlot
  pinOps : List PinOp
  dividerInForce : Word
  dividerRequested : Word
  leaseClock : Vector Countdown 256
  waitClock : Vector Countdown 128
  tokens : TokenUnit
  store : Store
  cells : Cells
  unstated : Nat
  pending : List Instr
deriving DecidableEq, Repr

/-- The cells of a part new from the factory (DESIGN CHOICE, entries 16 and 17). -/
def Cells.new : Cells := ⟨[], Vector.replicate 24 .blank, 0⟩

/-- The part right after device reset: RESET# low, everything the spec resets at its reset value, the
cells those of a new part, and no command waiting (R2, R18, R41, R64, R66, R69, R84, R104, R116, R129,
R144, R160; entries 1, 2, 15, 16, 17, 24, 31). -/
def State.reset : State where
  resetLow := true
  links := ⟨.reset, .reset, .reset, .reset⟩
  notices := ⟨.reset, .reset, .reset, .reset⟩
  loading := true
  arbiter := .internal
  inService := none
  workList := []
  directory := []
  leases := Vector.replicate 256 none
  leaseGens := Vector.replicate 256 0
  waits := Vector.replicate 128 none
  waitGens := Vector.replicate 128 0
  creation := []
  pinOps := []
  dividerInForce := Config.resetDivider
  dividerRequested := Config.resetDivider
  leaseClock := Vector.replicate 256 .reset
  waitClock := Vector.replicate 128 .reset
  tokens := .reset
  store := .reset
  cells := .new
  unstated := 0
  pending := []

/-! ### The reasons a step can stop -/

/-- The part has no fault: every command it carries out, refuses or ignores leaves it running (entry 23).
So nothing raises a fault, and the type has no constructor (safe). -/
inductive Fault : Type
deriving DecidableEq, Repr

/-- The reasons the model refuses a command. -/
inductive Refusal where
  /-- Raised by `exec`'s arm of a row that has no meaning yet; no arm raises it (safe). -/
  | notModelled (mnemonic : String)
deriving DecidableEq, Repr

end Sys2Proof.Machine
end

