-- ==== Sys2Proof/Machine/Operands.lean ====
section
/-! DEFINITION. The operands of the requests: every field of every request payload, read from the frame's
bytes by R186 and R188. The preamble has checked the payload's length before any of these is read; a byte
beyond the payload reads 0. -/

namespace Sys2Proof.Machine

/-! ### Request codes and their payload lengths (R154, R188) -/

/-- The request codes with their accepted payload lengths (R188). -/
def payloadLengths : List (Byte × Nat) :=
  [(0x10, 17), (0x11, 9), (0x12, 7), (0x13, 7), (0x14, 2),
   (0x20, 2), (0x21, 7), (0x22, 2),
   (0x30, 1), (0x31, 4), (0x32, 1), (0x33, 0), (0x34, 1),
   (0x40, 4), (0x41, 1), (0x42, 2), (0x43, 1), (0x44, 2), (0x45, 0)]

/-- The accepted payload length of a code; none for a code that is no request code (R153, R188). -/
def payloadLength? (code : Byte) : Option Nat :=
  (payloadLengths.find? fun e => e.1 == code).map Prod.snd

/-- The codes reserved to Link A (R154, R175). -/
def adminCodes : List Byte := [0x40, 0x41, 0x42, 0x43, 0x44, 0x45]

/-- The codes served while the part is loading: LINK-CONFIG and STATUS (R153, R154). -/
def servedWhileLoading : List Byte := [0x31, 0x32]

/-! ### Fields (R186) -/

/-- The byte at an offset of the payload. -/
def byteAt (p : List Byte) (i : Nat) : Byte := p.getD i 0

/-- Two bytes, most significant first. -/
def wordAt (p : List Byte) (i : Nat) : Word := byteAt p i ++ byteAt p (i + 1)

/-- Five bytes, most significant first: a token. -/
def tokenAt (p : List Byte) (i : Nat) : Token :=
  byteAt p i ++ byteAt p (i + 1) ++ byteAt p (i + 2) ++ byteAt p (i + 3) ++ byteAt p (i + 4)

/-- A handle: lease slot, then generation. -/
def handleAt (p : List Byte) (i : Nat) : LeaseHandle :=
  ⟨⟨(byteAt p i).toNat, (byteAt p i).isLt⟩, byteAt p (i + 1)⟩

/-- A wait id; none where the slot byte is above 127 (R57). -/
def waitIdAt (p : List Byte) (i : Nat) : Option WaitId :=
  if h : (byteAt p i).toNat < 128 then some ⟨⟨(byteAt p i).toNat, h⟩, byteAt p (i + 1)⟩ else none

/-- A link code; none for a value above 0x03. -/
def linkAt (p : List Byte) (i : Nat) : Option Link :=
  match (byteAt p i).toNat with
  | 0 => some .a
  | 1 => some .b
  | 2 => some .c
  | 3 => some .d
  | _ => none

/-- A pin slot; none for a value above 23. -/
def pinSlotAt (p : List Byte) (i : Nat) : Option PinSlot :=
  if h : (byteAt p i).toNat < 24 then some ⟨(byteAt p i).toNat, h⟩ else none

/-- A setting of 0 or 1; none for another value (R173). -/
def flagAt (p : List Byte) (i : Nat) : Option Bool :=
  match (byteAt p i).toNat with
  | 0 => some false
  | 1 => some true
  | _ => none

/-- A mode byte; none for a value other than 0 or 1 (R1). -/
def modeOf (b : Byte) : Option Mode :=
  match b.toNat with
  | 0 => some .shared
  | 1 => some .exclusive
  | _ => none

/-! ### ACQUIRE (R21, R23, R188) -/

/-- An ACQUIRE whose parameters are well formed. -/
structure AcquireRequest where
  duration : Word
  limit : Word
  set : List Entry
deriving DecidableEq, Repr

/-- The four entry places, each a tag and a mode byte. -/
def acquirePlaces (p : List Byte) : List (Tag × Byte) :=
  [(wordAt p 5, byteAt p 7), (wordAt p 8, byteAt p 10), (wordAt p 11, byteAt p 13),
   (wordAt p 14, byteAt p 16)]

/-- The places in use: the first tag-count places (R21). -/
def acquireUsed (p : List Byte) : List (Tag × Byte) :=
  (acquirePlaces p).take (byteAt p 4).toNat

/-- Step 2 of ACQUIRE: the request, or none where it is refused BAD_PARAM (R23). -/
def acquireRequest? (p : List Byte) : Option AcquireRequest :=
  let count := (byteAt p 4).toNat
  let used := acquireUsed p
  if count = 0 ∨ Config.tagsPerLease < count then none
  else if used.any (fun e => e.1 == 0) then none
  else if ¬ (used.map Prod.fst).Nodup then none
  else if used.any (fun e => (modeOf e.2).isNone) then none
  else if wordAt p 0 = 0 then none
  else some ⟨wordAt p 0, wordAt p 2,
    used.map fun e => ⟨e.1, (modeOf e.2).getD .shared⟩⟩

/-! ### LIST (R38) -/

/-- One position of LIST's walk: a lease slot or a wait slot. -/
inductive WalkPosition where
  | lease (slot : LeaseSlot)
  | wait (slot : WaitSlot)
deriving DecidableEq, Repr

/-- The whole walk: lease slots, then wait slots, each in ascending order (R38). -/
def wholeWalk : List WalkPosition :=
  (List.finRange 256).map .lease ++ (List.finRange 128).map .wait

/-- The walk from a cursor; none where the cursor is refused BAD_PARAM (R38). -/
def walkFrom? (p : List Byte) : Option (List WalkPosition) :=
  let slot := (byteAt p 1).toNat
  match (byteAt p 0).toNat with
  | 0 => some (wholeWalk.drop slot)
  | 1 => if slot < Config.waitRecords then some (wholeWalk.drop (Config.leaseRecords + slot)) else none
  | _ => none

/-- The cursor that names a position (R38). -/
def WalkPosition.cursor : WalkPosition → Word
  | .lease slot => BitVec.ofNat 16 slot.val
  | .wait slot => BitVec.ofNat 16 (256 + slot.val)

/-! ### LINK-CONFIG (R173) -/

/-- The four settings; none where one is refused BAD_PARAM (R173). -/
def settingsOf? (p : List Byte) : Option Settings :=
  match flagAt p 0, flagAt p 1, flagAt p 3 with
  | some n, some r, some e =>
    let level := (byteAt p 2).toNat
    if level = 0 ∨ Config.responseDepth < level then none else some ⟨n, r, level, e⟩
  | _, _, _ => none

end Sys2Proof.Machine
end

