-- ==== Sys2Proof/Machine/Ops.lean ====
section
/-! DEFINITION. The named operations over the part's state: reads and writes of each table, the lease
clock's claims, the directory, token issue and demand, the store's requests, reservations and posts,
the removal of leases and waits, the grant of a lease, the promotion pass and the abort of every wait.
Each request and each internal item is written over these. -/

namespace Sys2Proof

/-- The value of one link. -/
def PerLink.get {α : Type} (p : PerLink α) : Link → α
  | .a => p.a
  | .b => p.b
  | .c => p.c
  | .d => p.d

/-- The values with one link's replaced. -/
def PerLink.set {α : Type} (p : PerLink α) (l : Link) (v : α) : PerLink α :=
  match l with
  | .a => { p with a := v }
  | .b => { p with b := v }
  | .c => { p with c := v }
  | .d => { p with d := v }

end Sys2Proof

namespace Sys2Proof.Machine

/-! ### One field at a time -/

/-- A counter of 8 bits that stays at 255 (R142, R165). -/
def bump (n : BitVec 8) : BitVec 8 := if n = 255 then n else n + 1

def State.link (s : State) (l : Link) : LinkState := s.links.get l

def State.setLink (s : State) (l : Link) (x : LinkState) : State :=
  { s with links := s.links.set l x }

def State.noticeQueue (s : State) (l : Link) : NoticeQueue := s.notices.get l

def State.setNotices (s : State) (l : Link) (q : NoticeQueue) : State :=
  { s with notices := s.notices.set l q }

def State.lease (s : State) (slot : LeaseSlot) : Option Lease := s.leases[slot]

def State.setLease (s : State) (slot : LeaseSlot) (x : Option Lease) : State :=
  { s with leases := s.leases.set slot x }

def State.wait (s : State) (slot : WaitSlot) : Option Wait := s.waits[slot]

def State.setWait (s : State) (slot : WaitSlot) (x : Option Wait) : State :=
  { s with waits := s.waits.set slot x }

def State.setDirectory (s : State) (d : List Record) : State := { s with directory := d }

/-- Appends an item at the tail of the internal work list (R146). -/
def State.appendItem (s : State) (item : WorkItem) : State :=
  { s with workList := s.workList ++ [item] }

/-- The lowest-numbered free lease slot (R18). -/
def State.freeLease? (s : State) : Option LeaseSlot :=
  (List.finRange 256).find? fun i => (s.lease i).isNone

/-- The lowest-numbered free wait slot (R41). -/
def State.freeWait? (s : State) : Option WaitSlot :=
  (List.finRange 128).find? fun i => (s.wait i).isNone

/-- The generation that follows: stepped by 1, from 255 back to 1 (R19, R41). -/
def stepGeneration (g : Generation) : Generation := if g = 255 then 1 else g + 1

/-! ### The lease clock's countdowns (R69 to R75) -/

def State.countdown (s : State) : CountdownName → Countdown
  | .lease slot => s.leaseClock[slot]
  | .wait slot => s.waitClock[slot]

def State.setCountdown (s : State) (name : CountdownName) (c : Countdown) : State :=
  match name with
  | .lease slot => { s with leaseClock := s.leaseClock.set slot c }
  | .wait slot => { s with waitClock := s.waitClock.set slot c }

/-- The start claim; the mark stays as it was (R70). -/
def State.startClaim (s : State) (name : CountdownName) (value : Word) (gen : Generation) : State :=
  s.setCountdown name { s.countdown name with running := true, value := value, gen := gen }

/-- The reload claim; only the value changes (R71). -/
def State.reloadClaim (s : State) (name : CountdownName) (value : Word) : State :=
  s.setCountdown name { s.countdown name with value := value }

/-- The stop claim; generation and mark stay (R72). -/
def State.stopClaim (s : State) (name : CountdownName) : State :=
  s.setCountdown name { s.countdown name with running := false, value := 0 }

/-- The countdown is running at 0 (R77, R79). -/
def Countdown.runOut (c : Countdown) : Bool := c.running && c.value == 0

/-- One tick of one countdown (R73). -/
def Countdown.tick (c : Countdown) : Countdown :=
  if c.running && c.value != 0 then { c with value := c.value - 1 } else c

/-- The item the clock appends for a countdown, with the generation it holds (R73). -/
def clockItem : CountdownName → Generation → WorkItem
  | .lease slot, gen => .expiry slot gen
  | .wait slot, gen => .timeout slot gen

/-- The clock appends a countdown's item and sets its mark (R73). -/
def State.appendClockItem (s : State) (name : CountdownName) : State :=
  (s.setCountdown name { s.countdown name with mark := true }).appendItem
    (clockItem name (s.countdown name).gen)

/-- The clock appends an item for a countdown that is running at 0 with its mark clear (R73, R74). -/
def State.appendIfRunOut (s : State) (name : CountdownName) : State :=
  if (s.countdown name).runOut && !(s.countdown name).mark then s.appendClockItem name else s

/-- The engine clears a countdown's mark as it serves its item, and the clock appends a new item at once
when the countdown is then running at 0 (R74, R77, R79). -/
def State.clearMark (s : State) (name : CountdownName) : State :=
  (s.setCountdown name { s.countdown name with mark := false }).appendIfRunOut name

/-- Every countdown, lease slots first, each in ascending slot order (R73). -/
def allCountdowns : List CountdownName :=
  (List.finRange 256).map .lease ++ (List.finRange 128).map .wait

/-- The countdowns that reach 0 at the next tick with their marks clear, in the order of R73. -/
def State.dueAtTick (s : State) : List CountdownName :=
  allCountdowns.filter fun n =>
    (s.countdown n).running && (s.countdown n).value == 1 && !(s.countdown n).mark

/-! ### The directory (R2 to R13) -/

/-- The record of a tag, when it has one (R2). -/
def State.record? (s : State) (tag : Tag) : Option Record :=
  s.directory.find? fun r => r.tag == tag

/-- A tag as every check sees it: its record, or the empty view of a tag without one (R2). -/
def State.view (s : State) (tag : Tag) : Record := (s.record? tag).getD (.fresh tag)

/-- Changes the record of a tag, creating it where there is none (R10); the records stay in ascending
order of tag. -/
def alterRecord (tag : Tag) (f : Record → Record) : List Record → List Record
  | [] => [f (.fresh tag)]
  | r :: rest =>
    if tag < r.tag then f (.fresh tag) :: r :: rest
    else if tag = r.tag then f r :: rest
    else r :: alterRecord tag f rest

/-- Changes the records of the tags listed, creating none. -/
def onTags (tags : List Tag) (f : Record → Record) (d : List Record) : List Record :=
  d.map fun r => if tags.contains r.tag then f r else r

/-- The tags of a lease set. -/
def tagsOf (set : List Entry) : List Tag := set.map Entry.tag

/-- The mode of a request on a tag is compatible with the tag's holders (R6). -/
def Record.admits (r : Record) : Mode → Bool
  | .shared => r.holders.all fun h => h.mode != .exclusive
  | .exclusive => r.holders.isEmpty

/-- The record has no holders, no waiters and pin state none (R11). -/
def Record.isEmpty (r : Record) : Bool :=
  r.holders.isEmpty && r.queue.isEmpty && r.pin == .unpinned

/-- Retirement at the end of an item. DEDUCED (entry 19): by Law 8 a record the item did not touch is
not empty, so every record is tested (R11). -/
def State.retire (s : State) : State :=
  s.setDirectory (s.directory.filter fun r => !r.isEmpty)

/-- The free records of the directory (R12). -/
def State.freeRecords (s : State) : Nat := Config.resourceRecords - s.directory.length

/-- The tags of a set that have no record (R12). -/
def State.missingRecords (s : State) (set : List Entry) : Nat :=
  set.countP fun e => (s.record? e.tag).isNone

/-- Every entry of the set is compatible with its tag's holders (R26, R49). -/
def State.admitsAll (s : State) (set : List Entry) : Bool :=
  set.all fun e => (s.view e.tag).admits e.mode

/-- The queue of every tag of the set is empty (R26). -/
def State.noQueue (s : State) (set : List Entry) : Bool :=
  set.all fun e => (s.view e.tag).queue.isEmpty

/-- The wait stands first in the queue of every tag of the set (R49). -/
def State.standsFirst (s : State) (w : WaitSlot) (set : List Entry) : Bool :=
  set.all fun e => (s.view e.tag).queue.head? == some w

/-- The owner is the owner of a holder of the tag or of a wait in its queue (R25). -/
def State.ownsOn (s : State) (o : Owner) (tag : Tag) : Bool :=
  (s.view tag).holders.any (fun h => (s.lease h.slot).any fun x => x.owner == o)
    || (s.view tag).queue.any (fun w => (s.wait w).any fun x => x.owner == o)

/-! ### Notice queues (R129 to R142) -/

/-- The queue has an unreserved slot (R131, R134). -/
def NoticeQueue.hasRoom (q : NoticeQueue) : Bool :=
  decide (q.stored.length + q.reserved < Config.noticeDepth)

/-- Takes one reservation (R131). -/
def State.reserve (s : State) (l : Link) : State :=
  s.setNotices l { s.noticeQueue l with reserved := (s.noticeQueue l).reserved + 1 }

/-- Releases one reservation without a notice (R133). -/
def State.releaseReservation (s : State) (l : Link) : State :=
  s.setNotices l { s.noticeQueue l with reserved := (s.noticeQueue l).reserved - 1 }

/-- Posts a notice of a reserved kind into a reservation (R132). -/
def State.postReserved (s : State) (l : Link) (n : Notice) : State :=
  s.setNotices l
    { s.noticeQueue l with
      stored := (s.noticeQueue l).stored ++ [n]
      reserved := (s.noticeQueue l).reserved - 1 }

/-- Posts a notice of an unreserved kind: stored where there is room, counted lost where there is none
(R134). -/
def State.postUnreserved (s : State) (l : Link) (n : Notice) : State :=
  if (s.noticeQueue l).hasRoom then
    s.setNotices l { s.noticeQueue l with stored := (s.noticeQueue l).stored ++ [n] }
  else
    s.setNotices l { s.noticeQueue l with lost := bump (s.noticeQueue l).lost }

/-- A presentation of a notice in progress no longer shows its queue's head (R137, R141). -/
def Receiver.loseHead : Receiver → Receiver
  | .presenting code stream shifted isHead =>
    .presenting code stream shifted (isHead && !(code == 0xA8 || code == 0xA9))
  | r => r

/-- Empties a link's stored notices; the reservations left and the lost counter are kept (R139, R141). -/
def State.emptyNotices (s : State) (l : Link) : State :=
  (s.setNotices l { s.noticeQueue l with stored := [], presented := false }).setLink l
    { s.link l with receiver := (s.link l).receiver.loseHead }

/-- Sets a link's reserved count to 0, as CLEAR does (R140). -/
def State.dropReservations (s : State) (l : Link) : State :=
  s.setNotices l { s.noticeQueue l with reserved := 0 }

/-! ### The token unit and the store's requests (R84 to R89, R104 to R109) -/

/-- The token the unit issues next (R89). -/
def TokenUnit.next (u : TokenUnit) : Token := Token.make u.epoch u.serial

/-- The unit after issuing a token; only a READY unit issues one (R89). -/
def TokenUnit.issue (u : TokenUnit) : TokenUnit :=
  match u.state with
  | .ready =>
    if u.serial != 16777215 then { u with serial := u.serial + 1 }
    else if u.epoch != 65535 then { u with state := .unarmed, serial := 0 }
    else { u with state := .exhausted, serial := 0 }
  | .unarmed | .advancing | .fault | .exhausted => u

/-- How an epoch step reads that the cells do not list. -/
def EpochMarks.blank : EpochMarks := ⟨.blank, .blank⟩

/-- The marks of an epoch step (R101). -/
def epochMarks (n : Nat) (cells : List (Nat × EpochMarks)) : EpochMarks :=
  ((cells.find? fun e => e.1 == n).map Prod.snd).getD .blank

/-- Sets the marks of an epoch step, keeping the list in its canonical form: steps strictly rising, no
blank entry. -/
def putEpochMarks (n : Nat) (m : EpochMarks) : List (Nat × EpochMarks) → List (Nat × EpochMarks)
  | [] => if m = .blank then [] else [(n, m)]
  | e :: rest =>
    if n < e.1 then (if m = .blank then e :: rest else (n, m) :: e :: rest)
    else if n = e.1 then (if m = .blank then rest else (n, m) :: rest)
    else e :: putEpochMarks n m rest

def State.setEpochMarks (s : State) (n : Nat) (m : EpochMarks) : State :=
  { s with cells := { s.cells with epochs := putEpochMarks n m s.cells.epochs } }

def State.setPinCells (s : State) (slot : PinSlot) (x : PinCells) : State :=
  { s with cells := { s.cells with pins := s.cells.pins.set slot x } }

def State.setSlotEntry (s : State) (slot : PinSlot) (x : SlotEntry) : State :=
  { s with store := { s.store with slots := s.store.slots.set slot x } }

def State.setController (s : State) (c : Controller) : State :=
  { s with store := { s.store with controller := c } }

def State.setPendingAdvance (s : State) (b : Bool) : State :=
  { s with store := { s.store with pendingAdvance := b } }

/-- The controller starts an advance: it enters BUSY(ADVANCE) for the next step. DEDUCED (entry 21): the
begin step begins in that moment, so the begun count rises to the step and the step's begin mark, being
programmed, is no longer blank (R101, R107). With every step begun it programs nothing and appends a failed
item at once; DEDUCED (entry 22): that item carries the begun count plus 1. -/
def State.startAdvance (s : State) : State :=
  if s.store.begun < Config.epochSteps then
    let step := s.store.begun + 1
    { s with store := { s.store with controller := .busyAdvance step, begun := step } }.setEpochMarks
      step ⟨.partly, .blank⟩
  else (s.setController .idle).appendItem (.advance (s.store.begun + 1) .failed)

/-- The controller takes an advance request (R105). A request in the other states does not arise. -/
def State.requestAdvance (s : State) : State :=
  match s.store.controller with
  | .idle => s.startAdvance
  | .busyPinWrite _ | .busyPinVoid _ => s.setPendingAdvance true
  | .loading | .busyAdvance _ => s

/-- The engine's demand for a token: made from UNARMED only (R86). -/
def State.demandToken (s : State) : State :=
  if s.tokens.state = .unarmed then
    { s with tokens := { s.tokens with state := .advancing } }.requestAdvance
  else s

/-- An operation ends: the controller returns to IDLE, and starts an advance held pending at once
(R104). -/
def State.endOperation (s : State) : State :=
  if s.store.pendingAdvance then ((s.setController .idle).setPendingAdvance false).startAdvance
  else s.setController .idle

/-- The controller is IDLE and the pending-advance flag is clear: the NV_BUSY check (R117, R121). -/
def State.storeFree (s : State) : Bool :=
  s.store.controller == .idle && !s.store.pendingAdvance

/-- The lowest-numbered BLANK slot of the slot table (R118). -/
def State.blankSlot? (s : State) : Option PinSlot :=
  (List.finRange 24).find? fun i => s.store.slots[i].state == .blank

/-- The blank pin slots, as STATUS and CAPS report them (R102). -/
def State.blankSlots (s : State) : Nat :=
  (List.finRange 24).countP fun i => s.store.slots[i].state == .blank

/-- The remaining epoch steps, as STATUS and CAPS report them (R101). -/
def State.remainingSteps (s : State) : Nat := Config.epochSteps - s.store.begun

/-! ### Leases: grant and removal (R18, R19, R27, R34, R50) -/

/-- Adds a lease at the tail of the holder list of each tag of its set and sets each tag's last token,
creating the records that are missing (R4, R8, R10). -/
def State.joinHolders (s : State) (slot : LeaseSlot) (token : Token) (set : List Entry) : State :=
  s.setDirectory <| set.foldl
    (fun d e => alterRecord e.tag
      (fun r => { r with holders := r.holders ++ [⟨slot, e.mode⟩], lastToken := token }) d)
    s.directory

/-- Puts a lease into a slot under the slot's stepped generation (R18, R19). -/
def State.allocateLease (s : State) (slot : LeaseSlot) (owner : Owner) (set : List Entry)
    (token : Token) (duration : Option Word) (state : LeaseState) : State :=
  let gen := stepGeneration s.leaseGens[slot]
  { s with
    leases := s.leases.set slot (some ⟨gen, owner, set, token, duration, state⟩)
    leaseGens := s.leaseGens.set slot gen }

/-- The handle that the next allocation of a slot gives (R19). -/
def State.nextHandle (s : State) (slot : LeaseSlot) : LeaseHandle :=
  ⟨slot, stepGeneration s.leaseGens[slot]⟩

/-- Grants a lease into a free slot: the slot is allocated, the token taken, the holder lists joined and
the countdown started (R27, R50). -/
def State.grantLease (s : State) (slot : LeaseSlot) (owner : Owner) (set : List Entry)
    (duration : Word) : State :=
  let token := s.tokens.next
  let handle := s.nextHandle slot
  ({ s.allocateLease slot owner set token (some duration) .active with
      tokens := s.tokens.issue }.joinHolders slot token set).startClaim
    (.lease slot) duration handle.gen

/-- The record without the lease among its holders (R4). -/
def Record.dropHolder (slot : LeaseSlot) (r : Record) : Record :=
  { r with holders := r.holders.filter fun h => h.slot != slot }

/-- The record without the wait in its queue (R5). -/
def Record.dropWaiter (w : WaitSlot) (r : Record) : Record :=
  { r with queue := r.queue.filter fun x => x != w }

/-- Removal of a lease: it leaves its tags' holder lists, its countdown is stopped and its slot freed, the
generation kept (R34). A PINNING lease stands in no list, so giving one up is the same (R120). -/
def State.removeLease (s : State) (slot : LeaseSlot) : State :=
  match s.lease slot with
  | none => s
  | some x =>
    ((s.setDirectory (onTags (tagsOf x.set) (Record.dropHolder slot) s.directory)).stopClaim
      (.lease slot)).setLease slot none

/-- The ACTIVE leases that meet the test, in ascending slot order (R35). -/
def State.activeLeases (s : State) (p : LeaseSlot → Lease → Bool) : List LeaseSlot :=
  (List.finRange 256).filter fun i => (s.lease i).any fun x => x.state == .active && p i x

/-! ### Waits: removal, grant and abort (R50, R57, R59, R60) -/

/-- Removal of a wait: it leaves its queues and the creation order, its countdown is stopped and its slot
freed (R59). What becomes of its reservation is the cause's to say. -/
def State.removeWait (s : State) (w : WaitSlot) : State :=
  match s.wait w with
  | none => s
  | some x =>
    ({ (s.setDirectory (onTags (tagsOf x.set) (Record.dropWaiter w) s.directory)).stopClaim (.wait w)
      with creation := s.creation.filter fun v => v != w }).setWait w none

/-- Removes a wait and releases its reservation without a notice (R57, R133). -/
def State.cancelWait (s : State) (w : WaitSlot) : State :=
  match s.wait w with
  | none => s
  | some x => (s.removeWait w).releaseReservation x.owner.link

/-- The live waits that meet the test, in creation order (R59). -/
def State.liveWaits (s : State) (p : Wait → Bool) : List WaitSlot :=
  s.creation.filter fun w => (s.wait w).any p

/-- Grants a wait into a free lease slot and posts GRANTED into its reservation (R50, R51). -/
def State.grantWait (s : State) (w : WaitSlot) (x : Wait) (slot : LeaseSlot) : State :=
  ((s.removeWait w).grantLease slot x.owner x.set x.duration).postReserved x.owner.link
    (.granted x.owner.client ⟨w, x.gen⟩ (s.nextHandle slot) s.tokens.next x.duration x.set)

/-- Aborts one wait: it is removed, and WAIT_ABORTED posted into its reservation (R60). -/
def State.abortWait (reason : AbortReason) (s : State) (w : WaitSlot) : State :=
  match s.wait w with
  | none => s
  | some x =>
    (s.removeWait w).postReserved x.owner.link (.waitAborted x.owner.client ⟨w, x.gen⟩ reason)

/-- Aborts every wait, oldest first (R60). -/
def State.abortWaits (s : State) (reason : AbortReason) : State :=
  s.creation.foldl (State.abortWait reason) s

/-! ### The promotion pass (R49, R52 to R55) -/

/-- The scan of the promotion pass over the waits still ahead of it, oldest first (R53). A wait that
stands first and compatible on every tag ends the scan when no lease slot is free, or, after the demand
of R54, when the unit is not READY; a grant that exhausts the unit ends it with the abort of R62. -/
def State.scan : List WaitSlot → State → State
  | [], s => s
  | w :: rest, s =>
    match s.wait w with
    | none => State.scan rest s
    | some x =>
      if s.standsFirst w x.set && s.admitsAll x.set then
        match s.freeLease? with
        | none => s
        | some slot =>
          if s.tokens.state = .ready then
            let t := s.grantWait w x slot
            if t.tokens.state = .exhausted then t.abortWaits .exhausted else State.scan rest t
          else s.demandToken
      else State.scan rest s

/-- The promotion pass (R52, R53). -/
def State.promotionPass (s : State) : State := State.scan s.creation s

/-! ### Detaching (R139, R179, R180) -/

/-- Removes leases in the order listed (R35). -/
def State.removeLeases (s : State) (slots : List LeaseSlot) : State := slots.foldl State.removeLease s

/-- Removes waits in the order listed, releasing their reservations (R179). -/
def State.cancelWaits (s : State) (ws : List WaitSlot) : State := ws.foldl State.cancelWait s

/-- The ACTIVE leases of the owners that meet the test (R179). -/
def State.leasesOf (s : State) (p : Owner → Bool) : List LeaseSlot :=
  s.activeLeases fun _ x => p x.owner

/-- The live waits of the owners that meet the test (R179). -/
def State.waitsOf (s : State) (p : Owner → Bool) : List WaitSlot := s.liveWaits fun x => p x.owner

/-- Removes the ACTIVE leases and the live waits of the owners that meet the test (R179, R180). -/
def State.detachOwners (s : State) (p : Owner → Bool) : State :=
  (s.removeLeases (s.leasesOf p)).cancelWaits (s.waitsOf p)

/-- The promotion pass when something was removed, and retirement: the end of an item's work on the
tables (R11, R52). -/
def State.settleTables (s : State) (passRuns : Bool) : State :=
  (if passRuns then s.promotionPass else s).retire

end Sys2Proof.Machine
end

