-- ==== Sys2Proof/Machine/Engine.lean ====
section
/-! DEFINITION. The table engine around the tables: the arbiter (R148 to R151), the common preamble
(R153) and the end of an item (R155). -/

namespace Sys2Proof.Machine

/-! ### The arbiter -/

/-- The sources in cycle order, beginning after a position (R148, R149). -/
def Source.cycleAfter : Source → List Source
  | .internal => [.link .a, .link .b, .link .c, .link .d, .internal]
  | .link .a => [.link .b, .link .c, .link .d, .internal, .link .a]
  | .link .b => [.link .c, .link .d, .internal, .link .a, .link .b]
  | .link .c => [.link .d, .internal, .link .a, .link .b, .link .c]
  | .link .d => [.internal, .link .a, .link .b, .link .c, .link .d]

/-- A source is eligible (R148). -/
def State.eligible (s : State) : Source → Bool
  | .internal => !s.workList.isEmpty
  | .link l =>
    !(s.link l).fifo.isEmpty && decide ((s.link l).responses.length < Config.responseDepth)

/-- The engine takes the oldest work of a source: it leaves its FIFO or the list at that moment, and the
source becomes the arbiter position (R149, R150). -/
def State.take (s : State) (src : Source) : State :=
  match src with
  | .internal =>
    match s.workList with
    | [] => s
    | item :: rest =>
      { s with workList := rest, arbiter := src, inService := some (.internal item) }
  | .link l =>
    match (s.link l).fifo with
    | [] => s
    | frame :: rest =>
      { s.setLink l { s.link l with fifo := rest } with
        arbiter := src, inService := some (.request l frame) }

/-- The arbiter decision: made when the engine is free, it takes the first eligible source after the
arbiter position, and where none is eligible the engine waits (R149). DEDUCED (entry 4): the model makes
it at the end of every step that frees the engine or can make a source eligible. -/
def State.arbitrate (s : State) : State :=
  if s.inService.isSome then s
  else
    match s.arbiter.cycleAfter.find? s.eligible with
    | some src => s.take src
    | none => s

/-- The end of an engine item: the engine is free, and decides again (R149). -/
def State.endItem (s : State) : State := { s with inService := none }.arbitrate

/-! ### Requests -/

/-- What a request is answered: its outcome and payload (R155). -/
structure Answer where
  outcome : OutcomeCode
  payload : Payload
deriving DecidableEq, Repr

/-- An answer without payload. -/
def Answer.plain (o : OutcomeCode) : Answer := ⟨o, .empty⟩

/-- DONE with a payload. -/
def Answer.done (p : Payload) : Answer := ⟨.done, p⟩

/-- The common preamble: the outcome of the first step that fails, or none (R153). -/
def State.preamble (s : State) (l : Link) (f : Frame) : Option OutcomeCode :=
  if s.loading && !servedWhileLoading.contains f.code then some .notReady
  else if payloadLength? f.code ≠ some f.payload.length then some .badRequest
  else if adminCodes.contains f.code && l != .a then some .notAdmin
  else none

/-- Appends a response record at the tail of a link's response queue (R155, R170). -/
def State.appendResponse (s : State) (l : Link) (r : Response) : State :=
  s.setLink l { s.link l with responses := (s.link l).responses ++ [r] }

/-- The request's own rule, after the preamble: the state it leaves and its answer. -/
abbrev RequestRule := State → Owner → List Byte → State × Answer

/-- The state and the answer of one request, the preamble's refusals included (R153, R155). -/
def State.judge (s : State) (rule : RequestRule) (l : Link) (f : Frame) : State × Answer :=
  match s.preamble l f with
  | some o => (s, .plain o)
  | none => rule s ⟨l, f.client⟩ f.payload

/-- Queues the response of the request in service and ends the item (R155, R170). -/
def State.respond (s : State) (l : Link) (r : Response) : State := (s.appendResponse l r).endItem

/-- Serves the request in service: judges it, which makes its claims and posts its notices; then its response
is queued and the item ends, or the response is held back as long as the command says (R145, R155,
R156). -/
def State.answerRequest (s : State) (rule : RequestRule) (extent : Extent) (l : Link) (f : Frame) :
    State :=
  let r := s.judge rule l f
  let response : Response := ⟨f.code, f.seq, r.2.outcome, r.2.payload⟩
  match extent with
  | .toItsEnd => r.1.respond l response
  | .toItsResponse => { r.1 with inService := some (.answering l response) }

/-- The engine serves a request whose code meets the test, when that is what it has taken: from its start, or
by the response it holds back. Otherwise the command finds nothing to serve and changes nothing
(entry 3). -/
def State.serveCodes (s : State) (ok : Byte → Bool) (rule : RequestRule) (extent : Extent) : State :=
  match s.inService with
  | some (.request l f) => if ok f.code then s.answerRequest rule extent l f else s
  | some (.answering l r) =>
    match extent with
    | .toItsEnd => if ok r.code then s.respond l r else s
    | .toItsResponse => s
  | some (.internal _) | none => s

/-- The engine serves a request of the given code. -/
def State.serveRequest (s : State) (code : Byte) (rule : RequestRule) (extent : Extent) : State :=
  s.serveCodes (· == code) rule extent

end Sys2Proof.Machine
end

