-- ==== Sys2Proof/Machine/Acquire.lean ====
section
/-! DEFINITION. ACQUIRE, from its parameters to its grant, its refusal or its wait (R22 to R30, R43 to
R47), and CANCEL (R57). -/

namespace Sys2Proof.Machine

/-- A refusal that names the first entry of the set that failed, counted from 1 (R24, R25, R29). -/
def entryRefusal (o : OutcomeCode) (set : List Entry) (fails : Entry → Bool) : Option Answer :=
  (set.findIdx? fails).map fun i => ⟨o, .entry (i + 1)⟩

/-- The pin state is pinned or unpinning (R24). -/
def PinState.inForce : PinState → Bool
  | .pinned _ | .unpinning _ => true
  | .unpinned | .pinning _ => false

/-- The pin state is pinning (R24). -/
def PinState.settling : PinState → Bool
  | .pinning _ => true
  | .unpinned | .pinned _ | .unpinning _ => false

/-- Step 3 of ACQUIRE (R24). -/
def TokenUnit.refusal (u : TokenUnit) : Option Answer :=
  match u.state with
  | .fault => some (.plain .tokenFault)
  | .exhausted => some (.plain .exhausted)
  | .unarmed | .advancing | .ready => none

/-- Steps 3 to 6 of ACQUIRE: the first refusal, or none (R12, R22, R24, R25). -/
def State.acquireRefusal (s : State) (o : Owner) (set : List Entry) : Option Answer :=
  s.tokens.refusal
    <|> entryRefusal .pinned set (fun e => (s.view e.tag).pin.inForce)
    <|> entryRefusal .pinPending set (fun e => (s.view e.tag).pin.settling)
    <|> entryRefusal .already set (fun e => s.ownsOn o e.tag)
    <|> if s.freeRecords < s.missingRecords set then some (.plain .tableFull) else none

/-- Step 7 of ACQUIRE: the slot an immediate grant takes, when its conditions hold (R26). -/
def State.immediateSlot? (s : State) (set : List Entry) : Option LeaseSlot :=
  if s.noQueue set && s.admitsAll set && s.tokens.state == .ready then s.freeLease? else none

/-- The grant that takes the last token of all is followed by the abort of every wait (R62). -/
def State.afterGrant (s : State) : State :=
  if s.tokens.state = .exhausted then (s.abortWaits .exhausted).settleTables true else s

/-- An immediate grant (R27, R28). -/
def State.acquireGrant (s : State) (o : Owner) (r : AcquireRequest) (slot : LeaseSlot) :
    State × Answer :=
  ((s.grantLease slot o r.set r.duration).afterGrant,
    ⟨.granted, .granted (s.nextHandle slot) s.tokens.next r.duration⟩)

/-- Step 8 of ACQUIRE: a request that may not wait (R29). -/
def State.acquireNoWait (s : State) (set : List Entry) : State × Answer :=
  match entryRefusal .conflict set
      (fun e => !(s.view e.tag).admits e.mode || !(s.view e.tag).queue.isEmpty) with
  | some a => (s, a)
  | none =>
    if s.freeLease?.isNone then (s, .plain .leaseFull)
    else (s.demandToken, .plain .tokenNotReady)

/-- The wait joins the tail of the queue of each tag of its set (R5, R45). -/
def State.joinQueues (s : State) (w : WaitSlot) (set : List Entry) : State :=
  s.setDirectory <| set.foldl
    (fun d e => alterRecord e.tag (fun r => { r with queue := r.queue ++ [w] }) d) s.directory

/-- The creation of a wait (R45). -/
def State.createWait (s : State) (w : WaitSlot) (o : Owner) (r : AcquireRequest) : State :=
  let gen := stepGeneration s.waitGens[w]
  let t := ({ s with
      waits := s.waits.set w (some ⟨gen, o, r.set, r.duration, r.limit⟩)
      waitGens := s.waitGens.set w gen
      creation := s.creation ++ [w] }.joinQueues w r.set).reserve o.link
  if r.limit = Config.unlimited then t else t.startClaim (.wait w) r.limit gen

/-- A new wait is held back by the token unit alone (R46). -/
def State.heldByUnitAlone (s : State) (set : List Entry) : Bool :=
  s.noQueue set && s.admitsAll set && s.freeLease?.isSome

/-- Steps 9 to 11 of ACQUIRE: WAIT_FULL, NOTE_FULL, or the wait (R43 to R47). -/
def State.acquireWait (s : State) (o : Owner) (r : AcquireRequest) : State × Answer :=
  match s.freeWait? with
  | none => (s, .plain .waitFull)
  | some w =>
    if (s.noticeQueue o.link).hasRoom then
      let t := s.createWait w o r
      (if s.heldByUnitAlone r.set then t.demandToken else t,
        ⟨.queued, .queued ⟨w, stepGeneration s.waitGens[w]⟩
          (r.set.map fun e => (s.view e.tag).queue.length)⟩)
    else (s, .plain .noteFull)

/-- Steps 7 to 11 of ACQUIRE (R22). -/
def State.acquireServe (s : State) (o : Owner) (r : AcquireRequest) : State × Answer :=
  match s.immediateSlot? r.set with
  | some slot => s.acquireGrant o r slot
  | none => if r.limit = 0 then s.acquireNoWait r.set else s.acquireWait o r

/-- ACQUIRE after the preamble (R22). -/
def ruleAcquire : RequestRule := fun s o p =>
  match acquireRequest? p with
  | none => (s, .plain .badParam)
  | some r =>
    match s.acquireRefusal o r.set with
    | some a => (s, a)
    | none => s.acquireServe o r

/-- ACQUIRE (R22). -/
def execAcquire (s : State) (extent : Extent := .toItsEnd) :
    Host.Outcome State Fault Refusal :=
  .next (s.serveRequest 0x10 ruleAcquire extent)

/-- The live wait a wait id names for an owner (R57). -/
def State.ownWait? (s : State) (o : Owner) (p : List Byte) : Option WaitSlot :=
  match waitIdAt p 0 with
  | none => none
  | some id =>
    if (s.wait id.slot).any (fun x => x.gen == id.gen && x.owner == o) then some id.slot else none

/-- CANCEL after the preamble (R57). -/
def ruleCancel : RequestRule := fun s o p =>
  match s.ownWait? o p with
  | none => (s, .plain .notFound)
  | some w => ((s.cancelWait w).settleTables true, .done .empty)

/-- CANCEL (R57). -/
def execCancel (s : State) (extent : Extent := .toItsEnd) :
    Host.Outcome State Fault Refusal :=
  .next (s.serveRequest 0x14 ruleCancel extent)

end Sys2Proof.Machine
end

