-- ==== Sys2Proof/Machine/Administration.lean ====
section
/-! DEFINITION. REVOKE, DETACH, FORCE_DETACH and CLEAR (chapter 11). -/

namespace Sys2Proof.Machine

/-! ### REVOKE (R176) -/

/-- The ACTIVE holders of a tag, in ascending slot order (R35, R176). -/
def State.revocable (s : State) (tag : Tag) : List LeaseSlot :=
  s.activeLeases fun i _ => (s.view tag).holders.any fun h => h.slot == i

/-- Removes one lease whole and posts REVOKED to its owner's link (R176). -/
def State.revokeLease (tag : Tag) (s : State) (slot : LeaseSlot) : State :=
  match s.lease slot with
  | none => s
  | some x =>
    (s.removeLease slot).postUnreserved x.owner.link
      (.revoked x.owner.client ⟨slot, x.gen⟩ x.token tag)

/-- REVOKE after the preamble (R176). -/
def ruleRevoke : RequestRule := fun s _ p =>
  let tag := wordAt p 0
  if tag = 0 then (s, .plain .badParam)
  else
    let slots := s.revocable tag
    ((slots.foldl (State.revokeLease tag) s).settleTables (!slots.isEmpty),
      .done (.revoked slots.length))

/-- REVOKE (R176). -/
def execRevoke (s : State) (extent : Extent := .toItsEnd) :
    Host.Outcome State Fault Refusal :=
  .next (s.serveRequest 0x42 ruleRevoke extent)

/-! ### DETACH and FORCE-DETACH (R178 to R180) -/

/-- The owners a DETACH of scope 0 detaches: the client of the frame alone (R178). -/
def onlyOwner (o : Owner) (x : Owner) : Bool := x == o

/-- The owners of a link, all its clients (R178). -/
def onLink (l : Link) (x : Owner) : Bool := x.link == l

/-- Something was removed by a detach of these owners (R52, R179). -/
def State.detachRemoves (s : State) (p : Owner → Bool) : Bool :=
  !(s.leasesOf p).isEmpty || !(s.waitsOf p).isEmpty

/-- The two counts of a detach (R179). -/
def State.detachCounts (s : State) (p : Owner → Bool) : Payload :=
  .removed (s.leasesOf p).length (s.waitsOf p).length

/-- A DETACH of one client (R179). -/
def State.detachClient (s : State) (o : Owner) : State × Answer :=
  ((s.detachOwners (onlyOwner o)).settleTables (s.detachRemoves (onlyOwner o)),
    .done (s.detachCounts (onlyOwner o)))

/-- A DETACH of a whole link (R139, R179). -/
def State.detachLink (s : State) (l : Link) : State × Answer :=
  (((s.detachOwners (onLink l)).emptyNotices l).settleTables (s.detachRemoves (onLink l)),
    .done (s.detachCounts (onLink l)))

/-- DETACH after the preamble (R178). -/
def ruleDetach : RequestRule := fun s o p =>
  match flagAt p 0 with
  | none => (s, .plain .badParam)
  | some false => s.detachClient o
  | some true => s.detachLink o.link

/-- DETACH (R178, R179). -/
def execDetach (s : State) (extent : Extent := .toItsEnd) :
    Host.Outcome State Fault Refusal :=
  .next (s.serveRequest 0x30 ruleDetach extent)

/-- FORCE-DETACH of a link: the work of a whole-link DETACH, with DETACHED posted between the emptying
and the pass (R180). -/
def State.forceDetach (s : State) (client : Client) (l : Link) : State × Answer :=
  ((((s.detachOwners (onLink l)).emptyNotices l).postUnreserved l
      (.detached client (s.leasesOf (onLink l)).length (s.waitsOf (onLink l)).length)).settleTables
        (s.detachRemoves (onLink l)),
    .done (s.detachCounts (onLink l)))

/-- FORCE-DETACH after the preamble (R180). -/
def ruleForceDetach : RequestRule := fun s o p =>
  match linkAt p 0 with
  | none => (s, .plain .badParam)
  | some l => s.forceDetach o.client l

/-- FORCE_DETACH (R180). -/
def execForceDetach (s : State) (extent : Extent := .toItsEnd) :
    Host.Outcome State Fault Refusal :=
  .next (s.serveRequest 0x43 ruleForceDetach extent)

/-! ### CLEAR (R182, R183) -/

/-- Empties one link's notice queue whole and posts CLEARED into it (R140, R183). -/
def State.clearNotices (client : Client) (s : State) (l : Link) : State :=
  ((s.emptyNotices l).dropReservations l).postUnreserved l (.cleared client)

/-- Every ACTIVE lease and every live wait removed, no notice posted (R182). -/
def State.clearTables (s : State) : State :=
  (s.liveWaits fun _ => true).foldl State.removeWait
    (s.removeLeases (s.activeLeases fun _ _ => true))

/-- CLEAR after the preamble (R182, R183). -/
def ruleClear : RequestRule := fun s o _ =>
  if !s.pinOps.isEmpty then (s, .plain .nvBusy)
  else
    (([Link.a, .b, .c, .d].foldl (State.clearNotices o.client) s.clearTables).settleTables true,
      .done (.removed (s.activeLeases fun _ _ => true).length (s.liveWaits fun _ => true).length))

/-- CLEAR (R182, R183). -/
def execClear (s : State) (extent : Extent := .toItsEnd) :
    Host.Outcome State Fault Refusal :=
  .next (s.serveRequest 0x45 ruleClear extent)

end Sys2Proof.Machine
end

