-- ==== Sys2Proof/Machine/Clock.lean ====
section
/-! DEFINITION. The lease clock's commands TICK, COUNTDOWN_REACHES_ZERO and SET_TICK, and the service of
its items, EXPIRY and TIMEOUT (chapter 4). -/

namespace Sys2Proof.Machine

/-- A tick: every countdown is decreased, the divider requested comes into force, and the countdowns that
reach 0 have their items appended, in the order of R73 (R66, R67, R73). -/
def State.tickClock (s : State) : State :=
  s.dueAtTick.foldl State.appendClockItem
    { s with
      dividerInForce := s.dividerRequested
      leaseClock := s.leaseClock.map Countdown.tick
      waitClock := s.waitClock.map Countdown.tick }

/-- TICK (R66, R67, R73). The clock runs from the release of RESET#. -/
def execTick (s : State) : Host.Outcome State Fault Refusal :=
  .next (if s.resetLow then s else s.tickClock.arbitrate)

/-- COUNTDOWN_REACHES_ZERO: the clock appends the item of a countdown that is running at 0 with its mark
clear, and sets the mark (R73, R74). A tick does this itself for every countdown it brings to 0, as R73
has it, so that after a tick this finds it done (DEDUCED, entry 6). -/
def execCountdownReachesZero (name : CountdownName) (s : State) :
    Host.Outcome State Fault Refusal :=
  .next (if s.resetLow then s else (s.appendIfRunOut name).arbitrate)

/-- SET-TICK after the preamble (R68). -/
def ruleSetTick : RequestRule := fun s _ p =>
  let divider := wordAt p 0
  if Config.maxDivider < divider then (s, .plain .badParam)
  else ({ s with dividerRequested := divider }, .done (.divider divider))

/-- SET_TICK (R67, R68). -/
def execSetTick (s : State) (extent : Extent := .toItsEnd) :
    Host.Outcome State Fault Refusal :=
  .next (s.serveRequest 0x44 ruleSetTick extent)

/-- The lease an expiry item takes effect on: ACTIVE, of the item's generation, its countdown running at
0 (R77). -/
def State.expiring? (s : State) (slot : LeaseSlot) (gen : Generation) : Option Lease :=
  match s.lease slot with
  | some x =>
    if x.state == .active && x.gen == gen && (s.countdown (.lease slot)).runOut then some x else none
  | none => none

/-- What an expiry item does that takes effect: removal, EXPIRED, a pass, retirement (R78). -/
def State.expireLease (s : State) (slot : LeaseSlot) (x : Lease) : State :=
  ((s.removeLease slot).postUnreserved x.owner.link
    (.expired x.owner.client ⟨slot, x.gen⟩ x.token)).settleTables true

/-- The service of an expiry item; its mark is cleared whether or not it takes effect (R74, R77). -/
def State.serveExpiry (s : State) (slot : LeaseSlot) (gen : Generation) : State :=
  let t := match s.expiring? slot gen with
    | some x => s.expireLease slot x
    | none => s
  (t.clearMark (.lease slot)).endItem

/-- EXPIRY (R77, R78). -/
def execExpiry (s : State) : Host.Outcome State Fault Refusal :=
  .next <|
    match s.inService with
    | some (.internal (.expiry slot gen)) => s.serveExpiry slot gen
    | _ => s

/-- The wait a timeout item takes effect on: live, of the item's generation, its countdown running at 0
(R79). -/
def State.timingOut? (s : State) (slot : WaitSlot) (gen : Generation) : Option Wait :=
  match s.wait slot with
  | some x => if x.gen == gen && (s.countdown (.wait slot)).runOut then some x else none
  | none => none

/-- What a timeout item does that takes effect: removal, WAIT_TIMEOUT into the wait's reservation, a pass,
retirement (R79). -/
def State.timeOutWait (s : State) (slot : WaitSlot) (x : Wait) : State :=
  ((s.removeWait slot).postReserved x.owner.link
    (.waitTimeout x.owner.client ⟨slot, x.gen⟩)).settleTables true

/-- The service of a timeout item; its mark is cleared whether or not it takes effect (R74, R79). -/
def State.serveTimeout (s : State) (slot : WaitSlot) (gen : Generation) : State :=
  let t := match s.timingOut? slot gen with
    | some x => s.timeOutWait slot x
    | none => s
  (t.clearMark (.wait slot)).endItem

/-- TIMEOUT (R79). -/
def execTimeout (s : State) : Host.Outcome State Fault Refusal :=
  .next <|
    match s.inService with
    | some (.internal (.timeout slot gen)) => s.serveTimeout slot gen
    | _ => s

end Sys2Proof.Machine
end

