-- ==== Sys2Proof/Machine/LeaseRequests.lean ====
section
/-! DEFINITION. RENEW, RELEASE and DOWNGRADE (R20, R31 to R37). -/

namespace Sys2Proof.Machine

/-- The judgement of R20 on the lease that the payload's handle and token name: STALE, PINNED, or the
ACTIVE lease with its slot. -/
def State.judgeLease (s : State) (o : Owner) (p : List Byte) :
    Except OutcomeCode (LeaseSlot × Lease) :=
  let h := handleAt p 0
  match s.lease h.slot with
  | none => .error .stale
  | some x =>
    if x.gen = h.gen ∧ x.token = tokenAt p 2 ∧ x.owner = o then
      if x.state = .active then .ok (h.slot, x) else .error .pinned
    else .error .stale

/-- The duration a RENEW leaves: the one given, or with 0 the lease's own (R31). -/
def Lease.renewed (x : Lease) (d : Word) : Word := if d = 0 then x.duration.getD 0 else d

/-- RENEW after the preamble (R31). -/
def ruleRenew : RequestRule := fun s o p =>
  match s.judgeLease o p with
  | .error e => (s, .plain e)
  | .ok (slot, x) =>
    let d := x.renewed (wordAt p 7)
    ((s.setLease slot (some { x with duration := some d })).reloadClaim (.lease slot) d,
      .done (.duration d))

/-- RENEW (R31). -/
def execRenew (s : State) (extent : Extent := .toItsEnd) :
    Host.Outcome State Fault Refusal :=
  .next (s.serveRequest 0x11 ruleRenew extent)

/-- RELEASE after the preamble (R33). -/
def ruleRelease : RequestRule := fun s o p =>
  match s.judgeLease o p with
  | .error e => (s, .plain e)
  | .ok (slot, _) => ((s.removeLease slot).settleTables true, .done .empty)

/-- RELEASE (R33). -/
def execRelease (s : State) (extent : Extent := .toItsEnd) :
    Host.Outcome State Fault Refusal :=
  .next (s.serveRequest 0x12 ruleRelease extent)

/-- The entry in shared mode (R36). -/
def Entry.share (e : Entry) : Entry := { e with mode := .shared }

/-- The record with the lease's holder entry in shared mode, in its place (R4, R36). -/
def Record.shareHolder (slot : LeaseSlot) (r : Record) : Record :=
  { r with holders := r.holders.map fun h => if h.slot = slot then { h with mode := .shared } else h }

/-- The exclusive entries of a lease set become shared, in the lease and in its tags' records (R36). -/
def State.shareLease (s : State) (slot : LeaseSlot) (x : Lease) : State :=
  (s.setLease slot (some { x with set := x.set.map Entry.share })).setDirectory
    (onTags (tagsOf x.set) (Record.shareHolder slot) s.directory)

/-- DOWNGRADE after the preamble (R36). -/
def ruleDowngrade : RequestRule := fun s o p =>
  match s.judgeLease o p with
  | .error e => (s, .plain e)
  | .ok (slot, x) =>
    ((s.shareLease slot x).settleTables true,
      .done (.changed (x.set.countP fun e => e.mode == .exclusive)))

/-- DOWNGRADE (R36). -/
def execDowngrade (s : State) (extent : Extent := .toItsEnd) :
    Host.Outcome State Fault Refusal :=
  .next (s.serveRequest 0x13 ruleDowngrade extent)

end Sys2Proof.Machine
end

