-- ==== Sys2Proof/Machine/Formats.lean ====
section
/-! DEFINITION. Every byte layout that the part sends, and the CRC (chapter 12, R186 to R191). -/

namespace Sys2Proof.Machine

/-! ### The CRC (R187) -/

/-- One bit of the CRC register's shift. -/
def crcShift (r : BitVec 16) : BitVec 16 := if r.msb then (r <<< 1) ^^^ 0x1021 else r <<< 1

/-- One byte into the CRC register, most significant bit first. -/
def crcByte (r : BitVec 16) (b : Byte) : BitVec 16 :=
  Nat.iterate crcShift 8 (r ^^^ (b.setWidth 16 <<< 8))

/-- The CRC of a list of bytes: polynomial 0x1021, initial value 0xFFFF (R187). -/
def crc (bs : List Byte) : BitVec 16 := bs.foldl crcByte 0xFFFF

/-! ### Fields (R186) -/

/-- A number in one byte. -/
def natByte (n : Nat) : List Byte := [BitVec.ofNat 8 n]

/-- Two bytes, most significant first. -/
def wordBytes (w : Word) : List Byte := [w.extractLsb' 8 8, w.extractLsb' 0 8]

/-- A number in two bytes, most significant first. -/
def natWord (n : Nat) : List Byte := wordBytes (BitVec.ofNat 16 n)

/-- The low 8n bits of a value, most significant byte first. -/
def bytesOf {w : Nat} (v : BitVec w) : Nat → List Byte
  | 0 => []
  | n + 1 => v.extractLsb' (8 * n) 8 :: bytesOf v n

def tokenBytes (t : Token) : List Byte := bytesOf t 5

def handleBytes (h : LeaseHandle) : List Byte := [BitVec.ofNat 8 h.slot.val, h.gen]

def waitIdBytes (w : WaitId) : List Byte := [BitVec.ofNat 8 w.slot.val, w.gen]

/-- A link code (R186). -/
def Link.byte : Link → Byte
  | .a => 0x00
  | .b => 0x01
  | .c => 0x02
  | .d => 0x03

def Mode.byte : Mode → Byte
  | .shared => 0x00
  | .exclusive => 0x01

def boolByte (b : Bool) : Byte := if b then 0x01 else 0x00

/-- Filler (R186). -/
def filler (n : Nat) : List Byte := List.replicate n 0xFF

/-- A pin slot's data check: the CRC over the tag, the owner link code and the owner client (R102,
R187). -/
def PinData.check (d : PinData) : BitVec 16 :=
  crc (wordBytes d.tag ++ [Link.byte d.owner.link, d.owner.client])

/-! ### Codes -/

/-- The outcome codes (R157). -/
def OutcomeCode.byte : OutcomeCode → Byte
  | .done => 0x00
  | .granted => 0x01
  | .queued => 0x02
  | .accepted => 0x03
  | .badRequest => 0x80
  | .badParam => 0x81
  | .notAdmin => 0x82
  | .notReady => 0x83
  | .conflict => 0x84
  | .already => 0x85
  | .tableFull => 0x86
  | .leaseFull => 0x87
  | .waitFull => 0x88
  | .noteFull => 0x89
  | .pinned => 0x8A
  | .pinPending => 0x8B
  | .stale => 0x8C
  | .notFound => 0x8D
  | .tokenNotReady => 0x8E
  | .tokenFault => 0x8F
  | .exhausted => 0x90
  | .nvBusy => 0x91
  | .pinsFull => 0x92
  | .notFree => 0x93

/-- The reason byte of WAIT_ABORTED: the outcome code of the same name (R191). -/
def AbortReason.byte : AbortReason → Byte
  | .tokenFault => 0x8F
  | .exhausted => 0x90

/-- The states of a tag in a QUERY result (R190). -/
def TagState.byte : TagState → Byte
  | .free => 0x00
  | .shared => 0x01
  | .exclusive => 0x02
  | .pinning => 0x03
  | .pinned => 0x04
  | .unpinning => 0x05

/-- The token unit's states in a STATUS result (R189). -/
def UnitState.byte : UnitState → Byte
  | .unarmed => 0x00
  | .advancing => 0x01
  | .ready => 0x02
  | .fault => 0x03
  | .exhausted => 0x04

/-- The controller's states in a STATUS result (R189). -/
def Controller.byte : Controller → Byte
  | .loading => 0x00
  | .idle => 0x01
  | .busyAdvance _ => 0x02
  | .busyPinWrite _ => 0x03
  | .busyPinVoid _ => 0x04

/-- The states of a lease in a LIST entry (R190). -/
def LeaseState.byte : LeaseState → Byte
  | .active => 0x00
  | .pinning => 0x01
  | .pinned => 0x02
  | .unpinning => 0x03

/-- The states of a slot in a PIN-TABLE entry's upper four bits (R190). -/
def SlotState.nibble : SlotState → BitVec 4
  | .blank => 0
  | .writing => 1
  | .active => 2
  | .void => 3

/-- The pin states in a PIN-TABLE entry's lower four bits (R190). -/
def PinState.nibble : PinState → BitVec 4
  | .unpinned => 0
  | .pinning _ => 1
  | .pinned _ => 2
  | .unpinning _ => 3

/-! ### Response records (R189, R190) -/

/-- A holder place of a QUERY result: 0x81 and no ticks for a pinned lease (R190). -/
def HolderView.bytes (h : HolderView) : List Byte :=
  [Link.byte h.owner.link, h.owner.client] ++
    match h.ticks with
    | some t => h.mode.byte :: wordBytes t
    | none => 0x81 :: wordBytes 0

/-- The four holder places, unused ones filler (R190). -/
def holderPlaces (hs : List HolderView) : List Byte :=
  (hs.take 4).flatMap HolderView.bytes ++ filler (5 * (4 - hs.length))

def QueryResult.bytes (q : QueryResult) : List Byte :=
  [boolByte q.found, q.state.byte] ++ natWord q.holderCount ++ natByte q.waiterCount
    ++ tokenBytes q.lastToken ++ holderPlaces q.holders
    ++ match q.head with
       | some w => [Link.byte w.owner.link, w.owner.client, w.mode.byte]
       | none => filler 3

def ListEntry.bytes : ListEntry → List Byte
  | .lease handle client state ticks firstTag =>
    handleBytes handle ++ [client, state.byte] ++ wordBytes (ticks.getD 0) ++ wordBytes firstTag
  | .wait id client entries ticks firstTag =>
    waitIdBytes id ++ [client] ++ natByte (0x10 + entries) ++ wordBytes ticks ++ wordBytes firstTag

def PinTableEntry.bytes (e : PinTableEntry) : List Byte :=
  (e.state.nibble ++ e.pin.nibble : Byte) ::
    match e.data with
    | some d => wordBytes d.tag ++ [Link.byte d.owner.link, d.owner.client]
    | none => wordBytes 0 ++ filler 2

def Settings.bytes (x : Settings) : List Byte :=
  [boolByte x.noticeAttention, boolByte x.responseAttention] ++ natByte x.responseLevel
    ++ [boolByte x.errorAttention]

/-- The STATUS payload, 19 bytes (R189). -/
def StatusReport.bytes (r : StatusReport) : List Byte :=
  [(BitVec.ofBool r.ready ++ (0 : BitVec 5) ++ BitVec.ofBool r.errorFlag
      ++ BitVec.ofBool r.overrunSeen : Byte),
    r.crcCount, r.frameCount, r.overrunCount, r.lost]
    ++ natByte r.responses ++ natByte r.stored ++ natByte r.reserved
    ++ [r.tokens.state.byte] ++ wordBytes r.tokens.epoch ++ bytesOf r.tokens.serial 3
    ++ [r.controller.byte, boolByte r.pendingAdvance]
    ++ natWord r.remainingSteps ++ natByte r.blankSlots

/-- The CAPS payload, 30 bytes (R185, R189). -/
def capsBytes (remaining blank : Nat) (serial : BitVec 96) : List Byte :=
  natByte 1 ++ natByte 0 ++ natByte Config.links ++ natWord Config.resourceRecords
    ++ natWord Config.leaseRecords ++ natByte Config.waitRecords ++ natByte Config.pinSlots
    ++ natByte Config.noticeDepth ++ natByte Config.responseDepth ++ natByte Config.fifoDepth
    ++ natByte Config.tagsPerLease ++ natByte Config.tickBase ++ natByte Config.tokenWidth
    ++ natWord remaining ++ natByte blank ++ bytesOf serial 12

/-- The payload of a response (R189, R190). -/
def Payload.bytes : Payload → List Byte
  | .empty => []
  | .granted lease token life => handleBytes lease ++ tokenBytes token ++ wordBytes life
  | .queued wait ahead =>
    waitIdBytes wait ++ natByte ahead.length ++ ahead.flatMap natByte ++ filler (4 - ahead.length)
  | .entry position => natByte position
  | .duration ticks => wordBytes ticks
  | .divider value => wordBytes value
  | .changed entries => natByte entries
  | .query result => result.bytes
  | .check current lastToken => boolByte current :: tokenBytes lastToken
  | .list next entries =>
    natByte entries.length ++ wordBytes next ++ entries.flatMap ListEntry.bytes
  | .pinTable first next entries =>
    natByte first.val ++ natByte entries.length ++ [next] ++ entries.flatMap PinTableEntry.bytes
  | .removed leases waits => natWord leases ++ natByte waits
  | .revoked leases => natWord leases
  | .settings now => now.bytes
  | .pin slot tag => natByte slot.val ++ wordBytes tag
  | .status report => report.bytes
  | .caps remaining blank serial => capsBytes remaining blank serial

/-- A response record (R189). -/
def Response.bytes (r : Response) : List Byte := [r.code, r.seq, r.outcome.byte] ++ r.payload.bytes

/-! ### Notice records (R191) -/

/-- The mode bits of GRANTED: bit 0 is the first entry's, 1 exclusive (R191). -/
def modeBits : List Entry → Nat
  | [] => 0
  | e :: rest => (if e.mode = .exclusive then 1 else 0) + 2 * modeBits rest

/-- The four tag places of GRANTED, unused ones 0 (R191). -/
def tagPlaces (set : List Entry) : List Byte :=
  (set.take 4).flatMap (fun e => wordBytes e.tag) ++ List.replicate (2 * (4 - set.length)) 0

/-- A notice's kind, client and fields, before the filler (R191). -/
def Notice.fields : Notice → List Byte
  | .granted client wait lease token duration set =>
    [0x01, client] ++ waitIdBytes wait ++ handleBytes lease ++ tokenBytes token ++ wordBytes duration
      ++ natByte set.length ++ natByte (modeBits set) ++ tagPlaces set
  | .waitTimeout client wait => [0x02, client] ++ waitIdBytes wait
  | .waitAborted client wait reason => [0x03, client] ++ waitIdBytes wait ++ [reason.byte]
  | .expired client lease token => [0x04, client] ++ handleBytes lease ++ tokenBytes token
  | .revoked client lease token tag =>
    [0x05, client] ++ handleBytes lease ++ tokenBytes token ++ wordBytes tag
  | .pinned client tag slot => [0x06, client] ++ wordBytes tag ++ natByte slot.val
  | .pinReleased client tag slot => [0x07, client] ++ wordBytes tag ++ natByte slot.val
  | .pinDone client slot tag => [0x08, client] ++ natByte slot.val ++ wordBytes tag
  | .pinFailed client slot tag => [0x09, client] ++ natByte slot.val ++ wordBytes tag
  | .unpinDone client slot tag => [0x0A, client] ++ natByte slot.val ++ wordBytes tag
  | .unpinFailed client slot tag => [0x0B, client] ++ natByte slot.val ++ wordBytes tag
  | .detached client leases waits => [0x0C, client] ++ natWord leases ++ natByte waits
  | .cleared client => [0x0D, client]

/-- A notice record: 24 bytes, unused ones filler (R191). -/
def Notice.bytes (n : Notice) : List Byte := n.fields ++ filler (24 - n.fields.length)

/-! ### Presentations (R168) -/

/-- What a fetch shifts out from its third byte, before the filler: length, record, CRC. An empty queue
is presented as length 0 (R168). -/
def presentation (record : Option (List Byte)) : List Byte :=
  let body := BitVec.ofNat 8 (record.getD []).length :: record.getD []
  body ++ wordBytes (crc body)

end Sys2Proof.Machine
end

