-- ==== Sys2Proof/Machine/Nonvolatile.lean ====
section
/-! DEFINITION. The nonvolatile store's commands START_UP_LOAD, ADVANCE, PIN_WRITE, PIN_VOID and
PENDING_ADVANCE_START (chapter 6), and the service of the load's and the advance's completion items. -/

namespace Sys2Proof.Machine

/-! ### The load's reading (R102, R112) -/

/-- The begun count: the highest step whose begin mark is not blank, or 0 (R101, R112). -/
def Cells.begunCount (c : Cells) : Nat :=
  c.epochs.foldl (fun n e => if e.2.beginMark == .blank then n else max n e.1) 0

/-- The data a slot's cells show, when its data check passes (R102). -/
def PinCells.checkedData? (x : PinCells) : Option PinData :=
  match x.data with
  | .complete .asWritten d check => if d.tag != 0 && check == d.check then some d else none
  | .complete .otherwise _ _ | .blank | .partly => none

/-- The data of a slot that reads ACTIVE, its tag's other slots apart (R112). -/
def PinCells.activeData? (x : PinCells) : Option PinData :=
  if x.valid == .complete && x.void == .blank then x.checkedData? else none

/-- The slot reads BLANK (R112). -/
def PinCells.readsBlank (x : PinCells) : Bool :=
  x.data == .blank && x.valid == .blank && x.void == .blank

/-- A slot reads ACTIVE: its cells do, and no lower slot that does has the same tag (R112). -/
def Cells.active? (c : Cells) (slot : PinSlot) : Option PinData :=
  (c.pins[slot].activeData?).filter fun d =>
    (List.finRange 24).all fun i =>
      !(decide (i < slot) && (c.pins[i].activeData?).any fun e => e.tag == d.tag)

/-- What the load writes into a slot's table entry (R102, R112). -/
def Cells.entry (c : Cells) (slot : PinSlot) (old : SlotEntry) : SlotEntry where
  state :=
    if (c.active? slot).isSome then .active
    else if c.pins[slot].readsBlank then .blank else .void
  data := (c.pins[slot].checkedData?).getD old.data
  shown := (c.pins[slot].checkedData?).isSome

/-- The ACTIVE slots with their data, in slot order (R111). -/
def Cells.activeSlots (c : Cells) : List (PinSlot × PinData) :=
  (List.finRange 24).filterMap fun i => (c.active? i).map fun d => (i, d)

/-- The store as the load leaves it (R103, R111, R112). -/
def Store.loaded (x : Store) (c : Cells) : Store :=
  { x with
    controller := .idle
    begun := c.begunCount
    slots := Vector.ofFn fun i => c.entry i x.slots[i]
    serial := c.serial }

/-- START_UP_LOAD: the reading ends, the begun count and the slot table are set, the load's item is
appended and the controller enters IDLE (R104, R111, R112). -/
def execStartUpLoad (s : State) : Host.Outcome State Fault Refusal :=
  .next <|
    if !s.resetLow && s.store.controller == .loading then
      ({ s with store := s.store.loaded s.cells }.appendItem
        (.load s.cells.begunCount s.cells.activeSlots)).arbitrate
    else s

/-! ### The end of each operation (R107 to R109) -/

/-- The mark a programming step leaves; DEDUCED (entry 13): a failed step leaves it partial (R100). -/
def stepMark : StepResult → Mark
  | .good => .complete
  | .failed => .partly

/-- The result of two steps of which the second runs only after a good first (R107, R108). -/
def bothSteps : StepResult → StepResult → StepResult
  | .good, r => r
  | .failed, _ => .failed

/-- The marks an advance leaves: a failed begin step leaves the done mark unprogrammed (R107). -/
def advanceMarks (beginStep doneStep : StepResult) : EpochMarks :=
  ⟨stepMark beginStep, match beginStep with | .good => stepMark doneStep | .failed => .blank⟩

/-- ADVANCE: the advance in progress ends; its step is used either way (R104, R106, R107). -/
def execAdvance (beginStep doneStep : StepResult) (s : State) :
    Host.Outcome State Fault Refusal :=
  .next <|
    match s.store.controller with
    | .busyAdvance step =>
      (((s.setEpochMarks step (advanceMarks beginStep doneStep)).appendItem
        (.advance step (bothSteps beginStep doneStep))).endOperation).arbitrate
    | .loading | .idle | .busyPinWrite _ | .busyPinVoid _ => s

/-- The cells a pin write leaves: the valid step runs after a good data step, the void step after a
failure of either (R108). -/
def writeCells (dataStep validStep voidStep : StepResult) (d : PinData) (x : PinCells) : PinCells :=
  match dataStep, validStep with
  | .good, .good => { x with data := .complete .asWritten d d.check, valid := .complete }
  | .good, .failed => ⟨.complete .asWritten d d.check, .partly, stepMark voidStep⟩
  | .failed, _ => { x with data := .partly, void := stepMark voidStep }

/-- The slot table entry a pin write leaves (R102, R108). -/
def SlotEntry.written (x : SlotEntry) (dataStep validStep : StepResult) : SlotEntry :=
  { x with
    state := match bothSteps dataStep validStep with | .good => .active | .failed => .void
    shown := x.shown || dataStep == StepResult.good }

/-- PIN_WRITE: the pin write in progress ends (R104, R106, R108). -/
def execPinWrite (dataStep validStep voidStep : StepResult) (s : State) :
    Host.Outcome State Fault Refusal :=
  .next <|
    match s.store.controller with
    | .busyPinWrite slot =>
      let x := s.store.slots[slot]
      (((((s.setPinCells slot
          (writeCells dataStep validStep voidStep x.data s.cells.pins[slot])).setSlotEntry
          slot (x.written dataStep validStep))).appendItem
        (.pinWrite slot (bothSteps dataStep validStep))).endOperation).arbitrate
    | .loading | .idle | .busyAdvance _ | .busyPinVoid _ => s

/-- PIN_VOID: the pin void in progress ends; the slot is VOID either way (R104, R106, R109). -/
def execPinVoid (voidStep : StepResult) (s : State) : Host.Outcome State Fault Refusal :=
  .next <|
    match s.store.controller with
    | .busyPinVoid slot =>
      (((((s.setPinCells slot { s.cells.pins[slot] with void := stepMark voidStep }).setSlotEntry
          slot { s.store.slots[slot] with state := .void })).appendItem
        (.pinVoid slot voidStep)).endOperation).arbitrate
    | .loading | .idle | .busyAdvance _ | .busyPinWrite _ => s

/-- PENDING_ADVANCE_START: the controller clears the pending-advance flag and starts the advance (R104).
The end of a pin operation does this itself at the same moment, as R104 has it, so that after it this
finds it done (DEDUCED, entry 7). -/
def execPendingAdvanceStart (s : State) : Host.Outcome State Fault Refusal :=
  .next <|
    if !s.resetLow && s.store.controller == .idle && s.store.pendingAdvance then
      s.endOperation.arbitrate
    else s

/-! ### Completion items of the load and of an advance (R85, R87, R88, R114) -/

/-- One ACTIVE slot's lease and record, made by the load's item (R114). -/
def State.loadPin (s : State) (x : PinSlot × PinData) : State :=
  match s.freeLease? with
  | none => s
  | some slot =>
    let t := s.allocateLease slot x.2.owner [⟨x.2.tag, .exclusive⟩] 0 none .pinned
    t.setDirectory <| alterRecord x.2.tag
      (fun r => { r with holders := r.holders ++ [⟨slot, .exclusive⟩], pin := .pinned x.1 })
      t.directory

/-- The token unit takes the begun count the load found (R85). -/
def TokenUnit.afterLoad (u : TokenUnit) (begun : Nat) : TokenUnit :=
  if begun = Config.epochSteps then { u with state := .exhausted } else u

/-- The service of the load's completion item (R114). -/
def State.serveLoad (s : State) (begun : Nat) (active : List (PinSlot × PinData)) : State :=
  let t := active.foldl State.loadPin s
  { t with tokens := t.tokens.afterLoad begun, loading := false }.endItem

/-- LOAD_COMPLETION (R114). -/
def execLoadCompletion (s : State) : Host.Outcome State Fault Refusal :=
  .next <|
    match s.inService with
    | some (.internal (.load begun active)) => s.serveLoad begun active
    | _ => s

/-- The service of an advance's completion item: READY in the step's epoch and a pass, or FAULT and the
abort of every wait (R61, R87, R88). -/
def State.serveAdvance (s : State) (step : Nat) (result : StepResult) : State :=
  let t := match result with
    | .good => { s with tokens := ⟨.ready, BitVec.ofNat 16 step, 1⟩ }
    | .failed =>
      { s with tokens := { s.tokens with state := .fault, serial := 0 } }.abortWaits .tokenFault
  (t.settleTables true).endItem

/-- ADVANCE_COMPLETION (R87, R88). -/
def execAdvanceCompletion (s : State) : Host.Outcome State Fault Refusal :=
  .next <|
    match s.inService with
    | some (.internal (.advance step result)) => s.serveAdvance step result
    | _ => s

end Sys2Proof.Machine
end

