-- ==== Sys2Proof/Machine/Pins.lean ====
section
/-! DEFINITION. PIN and UNPIN, and the service of the completion items of pin writes and pin voids
(chapter 7, R116 to R127). -/

namespace Sys2Proof.Machine

/-- Changes the state of the lease in a slot. -/
def State.setLeaseState (s : State) (slot : LeaseSlot) (state : LeaseState) : State :=
  s.setLease slot ((s.lease slot).map fun x => { x with state := state })

/-- Sets the pin state of a tag's record. -/
def State.setPin (s : State) (tag : Tag) (pin : PinState) : State :=
  s.setDirectory (onTags [tag] (fun r => { r with pin := pin }) s.directory)

/-! ### PIN (R117, R118) -/

/-- Step 3 of PIN: the pin asked for, or none where it is refused BAD_PARAM (R117). -/
def pinRequest? (p : List Byte) : Option PinData :=
  if wordAt p 0 = 0 then none else (linkAt p 2).map fun l => ⟨wordAt p 0, l, byteAt p 3⟩

/-- The pin's lease, record, reservation and entry, and the request to the controller (R118). -/
def State.acceptPin (s : State) (client : Client) (d : PinData) (pinSlot : PinSlot)
    (slot : LeaseSlot) : State :=
  let t := s.allocateLease slot d.owner [⟨d.tag, .exclusive⟩] 0 none .pinning
  let u := (t.setDirectory
    (alterRecord d.tag (fun r => { r with pin := .pinning pinSlot }) t.directory)).reserve .a
  ({ u with pinOps := u.pinOps ++ [(⟨.write, pinSlot, d.tag, d.owner, slot, client⟩ : PinOp)] }.setSlotEntry
    pinSlot { u.store.slots[pinSlot] with state := .writing, data := d }).setController
      (.busyPinWrite pinSlot)

/-- Steps 4 to 9 of PIN and its acceptance, in the order of R117. -/
def State.pinServe (s : State) (client : Client) (d : PinData) : State × Answer :=
  if (s.record? d.tag).isSome then (s, .plain .notFree)
  else match s.blankSlot? with
  | none => (s, .plain .pinsFull)
  | some pinSlot =>
    if !s.storeFree then (s, .plain .nvBusy)
    else if s.freeRecords = 0 then (s, .plain .tableFull)
    else match s.freeLease? with
    | none => (s, .plain .leaseFull)
    | some slot =>
      if (s.noticeQueue .a).hasRoom then
        (s.acceptPin client d pinSlot slot, ⟨.accepted, .pin pinSlot d.tag⟩)
      else (s, .plain .noteFull)

/-- PIN after the preamble (R117). -/
def rulePin : RequestRule := fun s o p =>
  match pinRequest? p with
  | none => (s, .plain .badParam)
  | some d => s.pinServe o.client d

/-- PIN (R117, R118). -/
def execPin (s : State) (extent : Extent := .toItsEnd) :
    Host.Outcome State Fault Refusal :=
  .next (s.serveRequest 0x40 rulePin extent)

/-! ### UNPIN (R121, R122) -/

/-- The settled pin of a slot: ACTIVE in the slot table, with a record whose pin state is pinned(slot),
and the slot of the lease that holds the record (R121). -/
def State.settledPin? (s : State) (slot : PinSlot) : Option (Record × LeaseSlot) :=
  if s.store.slots[slot].state = .active then
    (s.directory.find? fun r => r.pin == .pinned slot).bind fun r =>
      r.holders.head?.map fun h => (r, h.slot)
  else none

/-- The owner of the lease in a slot. -/
def State.leaseOwner (s : State) (slot : LeaseSlot) : Owner :=
  ((s.lease slot).map Lease.owner).getD ⟨.a, 0⟩

/-- The lease, the record, the reservation, the entry, and the request to the controller (R122). -/
def State.acceptUnpin (s : State) (client : Client) (pinSlot : PinSlot) (r : Record)
    (slot : LeaseSlot) : State :=
  let t := (((s.setLeaseState slot .unpinning).setPin r.tag (.unpinning pinSlot)).reserve .a)
  { t with
    pinOps := t.pinOps ++ [(⟨.void, pinSlot, r.tag, s.leaseOwner slot, slot, client⟩ : PinOp)] }.setController
      (.busyPinVoid pinSlot)

/-- UNPIN after the preamble, in the order of R121. -/
def ruleUnpin : RequestRule := fun s o p =>
  match (pinSlotAt p 0).bind fun k => (s.settledPin? k).map fun x => (k, x) with
  | none => (s, .plain .notFound)
  | some (pinSlot, r, slot) =>
    if !s.storeFree then (s, .plain .nvBusy)
    else if (s.noticeQueue .a).hasRoom then
      (s.acceptUnpin o.client pinSlot r slot, ⟨.accepted, .pin pinSlot r.tag⟩)
    else (s, .plain .noteFull)

/-- UNPIN (R121, R122). -/
def execUnpin (s : State) (extent : Extent := .toItsEnd) :
    Host.Outcome State Fault Refusal :=
  .next (s.serveRequest 0x41 ruleUnpin extent)

/-! ### Completion items (R119, R120, R123, R124) -/

/-- The entry of the list of pin operations in flight for a slot (R116). -/
def State.pinOp? (s : State) (slot : PinSlot) : Option PinOp :=
  s.pinOps.find? fun e => e.slot == slot

/-- Removes the entry of a slot (R116: no two entries name one slot). -/
def State.dropPinOp (s : State) (slot : PinSlot) : State :=
  { s with pinOps := s.pinOps.eraseP fun e => e.slot == slot }

/-- A pin write came out good (R119). -/
def State.pinWritten (s : State) (e : PinOp) : State :=
  let t := s.setLeaseState e.leaseSlot .pinned
  (((t.setDirectory (onTags [e.tag]
      (fun r => { r with holders := r.holders ++ [⟨e.leaseSlot, .exclusive⟩], pin := .pinned e.slot })
      t.directory)).dropPinOp e.slot).postReserved .a
        (.pinDone e.client e.slot e.tag)).postUnreserved e.owner.link
          (.pinned e.owner.client e.tag e.slot)

/-- A pin write came out failed (R120). -/
def State.pinWriteFailed (s : State) (e : PinOp) : State :=
  ((((s.removeLease e.leaseSlot).setPin e.tag .unpinned).dropPinOp e.slot).postReserved .a
    (.pinFailed e.client e.slot e.tag)).settleTables true

/-- A pin void came out good (R123). -/
def State.pinVoided (s : State) (e : PinOp) : State :=
  (((((s.removeLease e.leaseSlot).setPin e.tag .unpinned).dropPinOp e.slot).postReserved .a
    (.unpinDone e.client e.slot e.tag)).postUnreserved e.owner.link
      (.pinReleased e.owner.client e.tag e.slot)).settleTables true

/-- A pin void came out failed (R124). -/
def State.pinVoidFailed (s : State) (e : PinOp) : State :=
  ((((s.setLeaseState e.leaseSlot .pinned).setPin e.tag (.pinned e.slot)).dropPinOp
    e.slot).postReserved .a (.unpinFailed e.client e.slot e.tag))

/-- The service of a pin write's completion item. -/
def State.servePinWrite (s : State) (slot : PinSlot) (result : StepResult) : State :=
  (match s.pinOp? slot with
    | none => s
    | some e => match result with
      | .good => s.pinWritten e
      | .failed => s.pinWriteFailed e).endItem

/-- PIN_WRITE_COMPLETION (R119, R120). -/
def execPinWriteCompletion (s : State) : Host.Outcome State Fault Refusal :=
  .next <|
    match s.inService with
    | some (.internal (.pinWrite slot result)) => s.servePinWrite slot result
    | _ => s

/-- The service of a pin void's completion item. -/
def State.servePinVoid (s : State) (slot : PinSlot) (result : StepResult) : State :=
  (match s.pinOp? slot with
    | none => s
    | some e => match result with
      | .good => s.pinVoided e
      | .failed => s.pinVoidFailed e).endItem

/-- PIN_VOID_COMPLETION (R123, R124). -/
def execPinVoidCompletion (s : State) : Host.Outcome State Fault Refusal :=
  .next <|
    match s.inService with
    | some (.internal (.pinVoid slot result)) => s.servePinVoid slot result
    | _ => s

end Sys2Proof.Machine
end

