-- ==== Sys2Proof/Machine/Flags.lean ====
section
/-! DEFINITION. What a link shows of the state at every moment: the status byte (R171, R191), the attention
output (R172) and the data output (R159, R160); and the link's error counters and error flag (R165). -/

namespace Sys2Proof.Machine

/-- The store busy indicator (R104, R171). -/
def Controller.busy : Controller → Bool
  | .idle => false
  | .loading | .busyAdvance _ | .busyPinWrite _ | .busyPinVoid _ => true

/-- The status byte of a link as the part stands, bit 7 first (R171, R191). -/
def State.statusByte (s : State) (l : Link) : Byte :=
  BitVec.ofBool (!s.loading)
    ++ BitVec.ofBool (!(s.link l).responses.isEmpty)
    ++ BitVec.ofBool (!(s.noticeQueue l).stored.isEmpty)
    ++ BitVec.ofBool (s.link l).errorFlag
    ++ BitVec.ofBool ((s.link l).overrunCount != 0)
    ++ BitVec.ofBool (s.tokens.state != .ready)
    ++ BitVec.ofBool s.store.controller.busy
    ++ BitVec.ofBool (l == .a)

/-- The attention output of a link is asserted (pulled low) (R143, R160, R172). -/
def State.attention (s : State) (l : Link) : Bool :=
  !s.resetLow &&
    (((s.link l).settings.noticeAttention && !(s.noticeQueue l).stored.isEmpty)
      || ((s.link l).settings.responseAttention
          && decide ((s.link l).settings.responseLevel ≤ (s.link l).responses.length))
      || ((s.link l).settings.errorAttention && (s.link l).errorFlag))

/-- What a link's data output does: nothing, or it drives the bits of a byte, most significant first
(R159). -/
inductive Output where
  | highZ
  | drives (byte : Byte)
deriving DecidableEq, Repr

/-- The byte on a link's DOUT, from its first bit on the pin to its last: driven while select is low, and
high-impedance while select is high and while RESET# is low (R159, R160). In a window it is the status byte
first, then 0xFF, or the bytes of the presentation and then filler (R161, R162, R166, R168). Outside a
window, with select low since before RESET# rose, no rule states it: a free value (entry 31). -/
def State.output (s : State) (l : Link) : Output :=
  if s.resetLow then .highZ
  else match (s.link l).receiver with
    | .idle => .highZ
    | .lowSinceReset => .drives (Config.outputOutsideWindow s.unstated l)
    | .collecting status [] => .drives status
    | .collecting _ (_ :: _) | .ignoring _ => .drives 0xFF
    | .presenting _ stream shifted _ => .drives (stream.getD shifted 0xFF)

/-- A frame error is counted and flagged (R162, R165, R166). -/
def LinkState.frameError (x : LinkState) : LinkState :=
  { x with frameCount := bump x.frameCount, errorFlag := true }

/-- A CRC error is counted and flagged (R163, R165). -/
def LinkState.crcError (x : LinkState) : LinkState :=
  { x with crcCount := bump x.crcCount, errorFlag := true }

/-- An overrun is counted and flagged (R164, R165). -/
def LinkState.overrunError (x : LinkState) : LinkState :=
  { x with overrunCount := bump x.overrunCount, errorFlag := true }

/-- A STATUS with clear: the three counters to 0 and the flag clear (R165, R174). -/
def LinkState.clearErrors (x : LinkState) : LinkState :=
  { x with crcCount := 0, frameCount := 0, overrunCount := 0, errorFlag := false }

end Sys2Proof.Machine
end

