-- ==== Sys2Proof/Machine/Readings.lean ====
section
/-! DEFINITION. The requests that read: QUERY (R13 to R15), CHECK (R97), LIST (R38, R39), CAPS (R185),
PIN_TABLE (R128) and STATUS (R174, which may also clear its own link's counters); LINK_CONFIG (R173);
and UNKNOWN_REQUEST (R153). -/

namespace Sys2Proof.Machine

/-! ### QUERY -/

/-- The state of a tag as QUERY reports it (R13). -/
def Record.reported (r : Record) : TagState :=
  match r.pin with
  | .pinning _ => .pinning
  | .pinned _ => .pinned
  | .unpinning _ => .unpinning
  | .unpinned =>
    if r.holders.isEmpty then .free
    else if r.holders.any (fun h => h.mode == .exclusive) then .exclusive else .shared

/-- The remaining ticks of the lease in a slot: its countdown's value when ACTIVE, none otherwise (R15,
R39). -/
def State.leaseTicks (s : State) (slot : LeaseSlot) (x : Lease) : Option Word :=
  if x.state = .active then some (s.countdown (.lease slot)).value else none

/-- A holder entry of a QUERY result (R15). -/
def State.holderView? (s : State) (h : Holder) : Option HolderView :=
  (s.lease h.slot).map fun x => ⟨x.owner, h.mode, s.leaseTicks h.slot x⟩

/-- The mode a lease set asks for on a tag. -/
def modeOn (set : List Entry) (tag : Tag) : Mode :=
  ((set.find? fun e => e.tag == tag).map Entry.mode).getD .shared

/-- The head waiter of a tag's queue (R15). -/
def State.headWaiter? (s : State) (tag : Tag) : Option WaiterView :=
  (s.view tag).queue.head?.bind fun w => (s.wait w).map fun x => ⟨x.owner, modeOn x.set tag⟩

/-- The result of QUERY on a tag (R14). -/
def State.queryResult (s : State) (tag : Tag) : QueryResult where
  found := (s.record? tag).isSome
  state := (s.view tag).reported
  holderCount := (s.view tag).holders.length
  waiterCount := (s.view tag).queue.length
  lastToken := (s.view tag).lastToken
  holders := ((s.view tag).holders.take 4).filterMap s.holderView?
  head := s.headWaiter? tag

/-- QUERY after the preamble (R14). -/
def ruleQuery : RequestRule := fun s _ p =>
  if wordAt p 0 = 0 then (s, .plain .badParam)
  else (s, .done (.query (s.queryResult (wordAt p 0))))

/-- QUERY (R14). -/
def execQuery (s : State) (extent : Extent := .toItsEnd) :
    Host.Outcome State Fault Refusal :=
  .next (s.serveRequest 0x20 ruleQuery extent)

/-! ### CHECK -/

/-- The tag's holder list holds an ACTIVE lease that carries the token (R97). -/
def State.tokenCurrent (s : State) (tag : Tag) (token : Token) : Bool :=
  (s.view tag).holders.any fun h =>
    (s.lease h.slot).any fun x => x.state == .active && x.token == token

/-- CHECK after the preamble (R97). -/
def ruleCheck : RequestRule := fun s _ p =>
  let tag := wordAt p 0
  if tag = 0 then (s, .plain .badParam)
  else (s, .done (.check (s.tokenCurrent tag (tokenAt p 2)) (s.view tag).lastToken))

/-- CHECK (R97). -/
def execCheck (s : State) (extent : Extent := .toItsEnd) :
    Host.Outcome State Fault Refusal :=
  .next (s.serveRequest 0x21 ruleCheck extent)

/-! ### LIST -/

/-- The first tag of a lease set (R39). -/
def firstTag (set : List Entry) : Tag := (set.head?.map Entry.tag).getD 0

/-- The remaining ticks of a wait: its countdown's value, or 65535 with no limit (R39). -/
def State.waitTicks (s : State) (slot : WaitSlot) (x : Wait) : Word :=
  if x.limit = Config.unlimited then Config.unlimited else (s.countdown (.wait slot)).value

/-- The LIST entry of a position, when a lease or a wait of the link stands there (R38, R39). -/
def State.listEntry? (s : State) (l : Link) : WalkPosition → Option ListEntry
  | .lease slot =>
    (s.lease slot).bind fun x =>
      if x.owner.link = l then
        some (.lease ⟨slot, x.gen⟩ x.owner.client x.state (s.leaseTicks slot x) (firstTag x.set))
      else none
  | .wait slot =>
    (s.wait slot).bind fun x =>
      if x.owner.link = l then
        some (.wait ⟨slot, x.gen⟩ x.owner.client x.set.length (s.waitTicks slot x) (firstTag x.set))
      else none

/-- The walk of LIST: at most `room` entries in walk order, and the next cursor (R38). -/
def State.walk (s : State) (l : Link) : Nat → List WalkPosition → List ListEntry × Word
  | _, [] => ([], 0xFFFF)
  | 0, p :: _ => ([], p.cursor)
  | room + 1, p :: rest =>
    match s.listEntry? l p with
    | none => s.walk l (room + 1) rest
    | some e => (e :: (s.walk l room rest).1, (s.walk l room rest).2)

/-- LIST after the preamble (R38). -/
def ruleList : RequestRule := fun s o p =>
  match walkFrom? p with
  | none => (s, .plain .badParam)
  | some positions =>
    (s, .done (.list (s.walk o.link 4 positions).2 (s.walk o.link 4 positions).1))

/-- LIST (R38, R39). -/
def execList (s : State) (extent : Extent := .toItsEnd) :
    Host.Outcome State Fault Refusal :=
  .next (s.serveRequest 0x22 ruleList extent)

/-! ### LINK-CONFIG and STATUS -/

/-- LINK-CONFIG after the preamble (R173). -/
def ruleLinkConfig : RequestRule := fun s o p =>
  match settingsOf? p with
  | none => (s, .plain .badParam)
  | some x => (s.setLink o.link { s.link o.link with settings := x }, .done (.settings x))

/-- LINK_CONFIG (R173). -/
def execLinkConfig (s : State) (extent : Extent := .toItsEnd) :
    Host.Outcome State Fault Refusal :=
  .next (s.serveRequest 0x31 ruleLinkConfig extent)

/-- What STATUS reports to a link (R174); the store's figures are 0 while it is LOADING (R111). -/
def State.statusReport (s : State) (l : Link) : StatusReport where
  ready := !s.loading
  errorFlag := (s.link l).errorFlag
  overrunSeen := (s.link l).overrunCount != 0
  crcCount := (s.link l).crcCount
  frameCount := (s.link l).frameCount
  overrunCount := (s.link l).overrunCount
  lost := (s.noticeQueue l).lost
  responses := (s.link l).responses.length
  stored := (s.noticeQueue l).stored.length
  reserved := (s.noticeQueue l).reserved
  tokens := s.tokens
  controller := s.store.controller
  pendingAdvance := s.store.pendingAdvance
  remainingSteps := if s.store.controller = .loading then 0 else s.remainingSteps
  blankSlots := if s.store.controller = .loading then 0 else s.blankSlots

/-- The clear of STATUS: the link's counters, its error flag and its lost counter (R142, R174). -/
def State.clearStatus (s : State) (l : Link) : State :=
  (s.setLink l (s.link l).clearErrors).setNotices l { s.noticeQueue l with lost := 0 }

/-- STATUS after the preamble (R174). -/
def ruleStatus : RequestRule := fun s o p =>
  match flagAt p 0 with
  | none => (s, .plain .badParam)
  | some clears =>
    (if clears then s.clearStatus o.link else s, .done (.status (s.statusReport o.link)))

/-- STATUS (R174). -/
def execStatus (s : State) (extent : Extent := .toItsEnd) :
    Host.Outcome State Fault Refusal :=
  .next (s.serveRequest 0x32 ruleStatus extent)

/-! ### CAPS and PIN-TABLE -/

/-- CAPS after the preamble (R185). -/
def ruleCaps : RequestRule := fun s _ _ =>
  (s, .done (.caps s.remainingSteps s.blankSlots s.store.serial))

/-- CAPS (R185). -/
def execCaps (s : State) (extent : Extent := .toItsEnd) :
    Host.Outcome State Fault Refusal :=
  .next (s.serveRequest 0x33 ruleCaps extent)

/-- The pin slot a pin state names (R9). -/
def PinState.slot? : PinState → Option PinSlot
  | .unpinned => none
  | .pinning slot | .pinned slot | .unpinning slot => some slot

/-- The pin state of the resource record that names a slot (R128). -/
def State.pinStateOf (s : State) (slot : PinSlot) : PinState :=
  ((s.directory.find? fun r => r.pin.slot? == some slot).map Record.pin).getD .unpinned

/-- The data PIN-TABLE shows of a slot (R128). -/
def SlotEntry.visible (x : SlotEntry) : Option PinData :=
  match x.state with
  | .blank => none
  | .writing | .active => some x.data
  | .void => if x.shown then some x.data else none

/-- An entry of a PIN-TABLE result (R128). -/
def State.pinTableEntry (s : State) (slot : PinSlot) : PinTableEntry :=
  ⟨slot, s.store.slots[slot].state, s.pinStateOf slot, s.store.slots[slot].visible⟩

/-- The slots a PIN-TABLE result shows: up to 6, from the first slot on (R128). -/
def pinTablePage (first : PinSlot) : List PinSlot := ((List.finRange 24).drop first.val).take 6

/-- The next slot of a PIN-TABLE result: 0xFF after slot 23 (R128). -/
def pinTableNext (first : PinSlot) : Byte :=
  if first.val + 6 < Config.pinSlots then BitVec.ofNat 8 (first.val + 6) else 0xFF

/-- PIN-TABLE after the preamble (R128). -/
def rulePinTable : RequestRule := fun s _ p =>
  match pinSlotAt p 0 with
  | none => (s, .plain .badParam)
  | some first =>
    (s, .done (.pinTable first (pinTableNext first) ((pinTablePage first).map s.pinTableEntry)))

/-- PIN_TABLE (R128). -/
def execPinTable (s : State) (extent : Extent := .toItsEnd) :
    Host.Outcome State Fault Refusal :=
  .next (s.serveRequest 0x34 rulePinTable extent)

/-! ### Unknown codes -/

/-- UNKNOWN_REQUEST: a frame whose code is no request code; the preamble refuses it, NOT_READY while
loading and BAD_REQUEST otherwise (R153). -/
def execUnknownRequest (s : State) (extent : Extent := .toItsEnd) :
    Host.Outcome State Fault Refusal :=
  .next (s.serveCodes (fun code => (payloadLength? code).isNone)
    (fun t _ _ => (t, .plain .badRequest)) extent)

end Sys2Proof.Machine
end

