-- ==== Sys2Proof/Machine/Reset.lean ====
section
/-! DEFINITION. DEVICE_RESET, RESET_RELEASE and SELECT_RISE_AFTER_RESET (R110, R111, R144, R160). -/

namespace Sys2Proof.Machine

/-- A mark whose programming was cut off or ran out: complete where flagged, else partial (R110). -/
def tornMark (complete : Bool) : Mark := if complete then .complete else .partly

/-- The complete data cells of a pin's data, as the controller writes them (R102). -/
def writtenData (d : PinData) (check : BitVec 16) : DataCells := .complete .asWritten d check

/-- The cells of a pin slot whose write a reset tears; `d` is the data being written (R110). -/
def tornWrite (tear : Tear) (d : DataCells) (x : PinCells) : PinCells :=
  match tear with
  | .writeData => { x with data := .partly }
  | .writeValid begun => { x with data := d, valid := if begun then .partly else .blank }
  | .writeVoid true complete => ⟨d, .partly, tornMark complete⟩
  | .writeVoid false complete => ⟨.partly, .blank, tornMark complete⟩
  | .asTheyStand | .advanceBegin _ | .advanceDone _ | .voidMark _ => x

/-- The cells after a reset, by the operation in progress and how far it had come (R110). A tear that
does not fit the operation leaves the cells as they stand. -/
def State.tornCells (s : State) (tear : Tear) : Cells :=
  match s.store.controller with
  | .busyAdvance step =>
    match tear with
    | .advanceBegin complete =>
      { s.cells with epochs := putEpochMarks step ⟨tornMark complete, .blank⟩ s.cells.epochs }
    | .advanceDone complete =>
      { s.cells with epochs := putEpochMarks step ⟨.complete, tornMark complete⟩ s.cells.epochs }
    | .asTheyStand | .writeData | .writeValid _ | .writeVoid _ _ | .voidMark _ => s.cells
  | .busyPinWrite slot =>
    let d := s.store.slots[slot].data
    { s.cells with
      pins := s.cells.pins.set slot (tornWrite tear (writtenData d d.check) s.cells.pins[slot]) }
  | .busyPinVoid slot =>
    match tear with
    | .voidMark complete =>
      { s.cells with
        pins := s.cells.pins.set slot { s.cells.pins[slot] with void := tornMark complete } }
    | .asTheyStand | .advanceBegin _ | .advanceDone _ | .writeData | .writeValid _
    | .writeVoid _ _ => s.cells
  | .loading | .idle => s.cells

/-- DEVICE_RESET: every part of the state but the cells takes its reset value, and whatever was in
progress is abandoned (R64, R110, R144, R160). The queue of commands is the sender's, and the next count
names a fresh free value (entry 31). -/
def execDeviceReset (tear : Tear) (s : State) : Host.Outcome State Fault Refusal :=
  .next { State.reset with
    cells := s.tornCells tear, unstated := s.unstated + 1, pending := s.pending }

/-- A link at the rise of RESET#: one whose select is low waits for it to rise (R160). -/
def LinkState.atRelease (low : Bool) (x : LinkState) : LinkState :=
  { x with receiver := if low then .lowSinceReset else .idle }

/-- RESET_RELEASE: RESET# rises; the load begins with the controller in LOADING, the first tick interval
begins, and each link looks at its select (R66, R111, R160). With RESET# already high there is no rise,
and nothing changes (entry 3). -/
def execResetRelease (low : PerLink Bool) (s : State) : Host.Outcome State Fault Refusal :=
  .next <|
    if s.resetLow then
      { s with
        resetLow := false
        links := ⟨s.links.a.atRelease low.a, s.links.b.atRelease low.b, s.links.c.atRelease low.c,
          s.links.d.atRelease low.d⟩ }
    else s

/-- SELECT_RISE_AFTER_RESET: select rises on a link whose select was low when RESET# rose; the link is
ready for its next window (R160). -/
def execSelectRiseAfterReset (l : Link) (s : State) : Host.Outcome State Fault Refusal :=
  .next <|
    if !s.resetLow && (s.link l).receiver == .lowSinceReset then
      s.setLink l { s.link l with receiver := .idle }
    else s

end Sys2Proof.Machine
end

