-- ==== Sys2Proof/WellFormed.lean ====
section
/-! DEFINITION. The checks on a command as syntax: a stretch of a window that begins with select falling
carries the code of its own row (R161, R166), and a stretch says something. What a command may do in a
given state is the machine's to decide, not this file's. -/

namespace Sys2Proof

/-- The first bytes that make a window a fetch (R161). -/
def fetchCodes : List Byte := [0xA0, 0xA1, 0xA8, 0xA9]

/-- The segment holds an edge of select or a byte. -/
def Segment.saysSomething (w : Segment) : Bool := w.falls || w.rises || !w.bytes.isEmpty

/-- The segment does not begin a window of another kind: where it holds the window's first byte, that
byte meets the test. -/
def Segment.codeMeets (w : Segment) (ok : Byte → Bool) : Bool :=
  !w.falls || (w.bytes.head?.all ok)

/-- The checks of each command. -/
def Instr.wellFormed : Instr → Bool
  | .requestFrame _ w => w.saysSomething && w.codeMeets (fun b => !fetchCodes.contains b)
  | .fetchResponse _ w => w.saysSomething && w.codeMeets (· == 0xA0)
  | .fetchDiscardResponse _ w => w.saysSomething && w.codeMeets (· == 0xA1)
  | .fetchNotice _ w => w.saysSomething && w.codeMeets (· == 0xA8)
  | .fetchDiscardNotice _ w => w.saysSomething && w.codeMeets (· == 0xA9)
  | .deviceReset _ | .resetRelease _ | .startUpLoad | .tick | .countdownReachesZero _
  | .statusRead _ _ | .acquire _ | .renew _ | .release _ | .downgrade _ | .cancel _ | .query _
  | .check _ | .list _ | .detach _ | .linkConfig _ | .status _ | .caps _ | .pinTable _ | .pin _
  | .unpin _ | .revoke _ | .forceDetach _ | .setTick _ | .clear _ | .unknownRequest _
  | .advance _ _ | .pinWrite _ _ _ | .pinVoid _
  | .pendingAdvanceStart | .expiry | .timeout | .loadCompletion | .advanceCompletion
  | .pinWriteCompletion | .pinVoidCompletion | .selectRiseAfterReset _ => true

end Sys2Proof
end

