-- ==== Sys2Proof/Machine/Windows.lean ====
section
/-! DEFINITION. The host links: windows, frame reception, fetches and presentation (chapter 10), and one
meaning for each of the table's window rows. A window is handled as it runs: select falls, bytes are
completed, select rises; a command brings one stretch of it (entry 8). -/

namespace Sys2Proof.Machine

/-! ### Queues as a fetch sees them (R137, R138, R166, R167) -/

/-- The code names the notice queue, not the response queue (R166). -/
def namesNotices (code : Byte) : Bool := code == 0xA8 || code == 0xA9

/-- The code discards first (R166). -/
def discardsFirst (code : Byte) : Bool := code == 0xA1 || code == 0xA9

/-- A discard from the response queue: a marked head is removed (R167). -/
def State.discardResponse (s : State) (l : Link) : State :=
  if (s.link l).presented && !(s.link l).responses.isEmpty then
    s.setLink l { s.link l with responses := (s.link l).responses.tail, presented := false }
  else s

/-- A discard from the notice queue: a marked head is removed (R138). -/
def State.discardNotice (s : State) (l : Link) : State :=
  if (s.noticeQueue l).presented && !(s.noticeQueue l).stored.isEmpty then
    s.setNotices l
      { s.noticeQueue l with stored := (s.noticeQueue l).stored.tail, presented := false }
  else s

/-- The discard a fetch makes when its complement is judged (R166, R167). -/
def State.fetchDiscard (s : State) (l : Link) (code : Byte) : State :=
  if discardsFirst code then
    if namesNotices code then s.discardNotice l else s.discardResponse l
  else s

/-- The head of the queue a fetch code names, as record bytes (R137, R166). -/
def State.fetchHead (s : State) (l : Link) (code : Byte) : Option (List Byte) :=
  if namesNotices code then (s.noticeQueue l).stored.head?.map Notice.bytes
  else (s.link l).responses.head?.map Response.bytes

/-- Sets the presented mark on the head of the queue a fetch code names (R137, R169). -/
def State.markHead (s : State) (l : Link) (code : Byte) : State :=
  if namesNotices code then s.setNotices l { s.noticeQueue l with presented := true }
  else s.setLink l { s.link l with presented := true }

/-! ### A window as it runs (R161 to R169) -/

def State.setReceiver (s : State) (l : Link) (r : Receiver) : State :=
  s.setLink l { s.link l with receiver := r }

/-- Select falls: the status byte is captured, and a window begins (R161, R171). -/
def State.selectFalls (s : State) (l : Link) : State :=
  s.setLink l { s.link l with receiver := .collecting (s.statusByte l) [], dout := [] }

/-- What the link shifts out in the bytes before a presentation: the status byte, then 0xFF (R161,
R162, R166). -/
def leadOut (status : Byte) : Nat → List Byte
  | 0 => []
  | n + 1 => status :: List.replicate n 0xFF

/-- `n` bytes more of a presentation of which `shifted` have gone, then filler (R168). -/
def presentationSlice (stream : List Byte) (shifted n : Nat) : List Byte :=
  (stream.drop shifted ++ List.replicate n 0xFF).take n

/-- Shifts out `n` bytes more of a presentation; completing its last byte sets the presented mark, when
a record was taken and is still the head (R168, R169). -/
def State.shiftPresentation (s : State) (l : Link) (code : Byte) (stream : List Byte)
    (shifted : Nat) (isHead : Bool) (n : Nat) : State :=
  let t := s.setLink l
    { s.link l with
      receiver := .presenting code stream (shifted + n) isHead
      dout := (s.link l).dout ++ presentationSlice stream shifted n }
  if isHead && decide (shifted < stream.length) && decide (stream.length ≤ shifted + n) then
    t.markHead l code
  else t

/-- A good complement: the discard, the taking of the head, and the presentation's first `n` bytes
(R166). -/
def State.beginPresentation (s : State) (l : Link) (code : Byte) (n : Nat) : State :=
  let t := s.fetchDiscard l code
  let record := t.fetchHead l code
  t.shiftPresentation l code (presentation record) 0 record.isSome n

/-- The link receives bytes in a window of which it has `old`: a fetch is judged when its second byte is
complete (R166), a request's L above 24 when L is complete (R162; DEDUCED, entry 9); otherwise the bytes
are kept. -/
def State.collect (s : State) (l : Link) (status : Byte) (old new : List Byte) : State :=
  let bytes := old ++ new
  let t := s.setLink l
    { s.link l with
      receiver := .collecting status bytes
      dout := leadOut status bytes.length }
  match bytes with
  | code :: complement :: rest =>
    if fetchCodes.contains code then
      if complement = ~~~code then
        (t.setLink l { t.link l with dout := leadOut status 2 }).beginPresentation l code rest.length
      else t.setLink l { (t.link l).frameError with receiver := .ignoring code }
    else if (bytes[3]?).any (fun len => decide (Config.maxPayload < len.toNat)) then
      t.setLink l { (t.link l).frameError with receiver := .ignoring code }
    else t
  | [_] | [] => t

/-- The link completes bytes in its window (R161). -/
def State.receiveBytes (s : State) (l : Link) (new : List Byte) : State :=
  match (s.link l).receiver with
  | .idle | .lowSinceReset => s
  | .collecting status old => s.collect l status old new
  | .presenting code stream shifted isHead =>
    s.shiftPresentation l code stream shifted isHead new.length
  | .ignoring code =>
    s.setLink l
      { s.link l with
        receiver := .ignoring code
        dout := (s.link l).dout ++ List.replicate new.length 0xFF }

/-- A good frame is offered to the FIFO (R164). -/
def LinkState.offerFrame (x : LinkState) (f : Frame) : LinkState :=
  if x.fifo.length < Config.fifoDepth then { x with fifo := x.fifo ++ [f] } else x.overrunError

/-- A request window is judged as select rises: framing, then CRC, then the FIFO (R162 to R164). -/
def LinkState.judgeFrame (x : LinkState) (bytes : List Byte) : LinkState :=
  match bytes with
  | code :: seq :: client :: len :: rest =>
    if len.toNat ≤ Config.maxPayload ∧ rest.length = len.toNat + 2 then
      let payload := rest.take len.toNat
      if wordBytes (crc (code :: seq :: client :: len :: payload)) = rest.drop len.toNat then
        x.offerFrame ⟨code, seq, client, payload⟩
      else x.crcError
    else x.frameError
  | _ => x.frameError

/-- Select rises: a window with no byte or one byte has no effect, a request window is judged, and the
link is ready for its next window (R161, R162). -/
def State.selectRises (s : State) (l : Link) : State :=
  match (s.link l).receiver with
  | .collecting _ bytes =>
    if 2 ≤ bytes.length then
      s.setLink l { (s.link l).judgeFrame bytes with receiver := .idle }
    else s.setReceiver l .idle
  | .idle | .lowSinceReset | .presenting _ _ _ _ | .ignoring _ => s.setReceiver l .idle

/-- The link's receiver is in a window. -/
def Receiver.inWindow : Receiver → Bool
  | .collecting _ _ | .presenting _ _ _ _ | .ignoring _ => true
  | .idle | .lowSinceReset => false

/-- The code of the window a segment belongs to: the window's first byte, where one is complete. -/
def Receiver.windowCode (r : Receiver) (w : Segment) : Option Byte :=
  match r with
  | .idle | .lowSinceReset => w.bytes.head?
  | .collecting _ old => (old ++ w.bytes).head?
  | .presenting code _ _ _ | .ignoring code => some code

/-- The segment can happen on the link: select falls only when it is high, and bytes and a rise come only
in a window (R161). While RESET# is low select and clock are ignored (R160). -/
def State.admitsSegment (s : State) (l : Link) (w : Segment) : Bool :=
  !s.resetLow &&
    (if w.falls then (s.link l).receiver == .idle else (s.link l).receiver.inWindow)

/-- A stretch of a window on a link (R161 to R169). A frame that joins the FIFO and a discard that makes
room for a response can make the link eligible, so the engine decides (R149, R152). -/
def State.runSegment (s : State) (l : Link) (w : Segment) : State :=
  let t := if w.falls then s.selectFalls l else s
  let u := t.receiveBytes l w.bytes
  (if w.rises then u.selectRises l else u).arbitrate

/-- A stretch of a window whose code meets the row's test; a stretch that cannot happen, or belongs to a
window of another row, changes nothing (entries 3 and 8). -/
def State.windowOf (s : State) (l : Link) (w : Segment) (ok : Byte → Bool) : State :=
  if s.admitsSegment l w && ((s.link l).receiver.windowCode w).all ok then s.runSegment l w else s

/-! ### The window rows -/

/-- REQUEST_FRAME (R162 to R164). -/
def execRequestFrame (l : Link) (w : Segment) (s : State) :
    Host.Outcome State Fault Refusal :=
  .next (s.windowOf l w fun code => !fetchCodes.contains code)

/-- STATUS_READ: one complete byte, which is not judged; the host gets the status byte (R161, R171). -/
def execStatusRead (l : Link) (byte : Byte) (s : State) : Host.Outcome State Fault Refusal :=
  .next (s.windowOf l (.whole [byte]) fun _ => true)

/-- FETCH_RESPONSE (R166, R168, R169). -/
def execFetchResponse (l : Link) (w : Segment) (s : State) :
    Host.Outcome State Fault Refusal :=
  .next (s.windowOf l w fun code => code == 0xA0)

/-- FETCH_DISCARD_RESPONSE (R166 to R169). -/
def execFetchDiscardResponse (l : Link) (w : Segment) (s : State) :
    Host.Outcome State Fault Refusal :=
  .next (s.windowOf l w fun code => code == 0xA1)

/-- FETCH_NOTICE (R137, R166, R168, R169). -/
def execFetchNotice (l : Link) (w : Segment) (s : State) :
    Host.Outcome State Fault Refusal :=
  .next (s.windowOf l w fun code => code == 0xA8)

/-- FETCH_DISCARD_NOTICE (R138, R166, R168, R169). -/
def execFetchDiscardNotice (l : Link) (w : Segment) (s : State) :
    Host.Outcome State Fault Refusal :=
  .next (s.windowOf l w fun code => code == 0xA9)

end Sys2Proof.Machine
end

