-- ==== Sys2Proof/Machine/Dispatch.lean ====
section
/-! DEFINITION. The meaning of every command: one arm for each row of spec/opcode_table.json. -/

namespace Sys2Proof.Machine

def exec (i : Instr) (s : State) : Host.Outcome State Fault Refusal :=
  match i with
  | .deviceReset tear => Sys2Proof.Machine.execDeviceReset tear s
  | .resetRelease low => Sys2Proof.Machine.execResetRelease low s
  | .startUpLoad => Sys2Proof.Machine.execStartUpLoad s
  | .tick => Sys2Proof.Machine.execTick s
  | .countdownReachesZero name => Sys2Proof.Machine.execCountdownReachesZero name s
  | .requestFrame l w => Sys2Proof.Machine.execRequestFrame l w s
  | .statusRead l byte => Sys2Proof.Machine.execStatusRead l byte s
  | .fetchResponse l w => Sys2Proof.Machine.execFetchResponse l w s
  | .fetchDiscardResponse l w => Sys2Proof.Machine.execFetchDiscardResponse l w s
  | .fetchNotice l w => Sys2Proof.Machine.execFetchNotice l w s
  | .fetchDiscardNotice l w => Sys2Proof.Machine.execFetchDiscardNotice l w s
  | .acquire extent => Sys2Proof.Machine.execAcquire s extent
  | .renew extent => Sys2Proof.Machine.execRenew s extent
  | .release extent => Sys2Proof.Machine.execRelease s extent
  | .downgrade extent => Sys2Proof.Machine.execDowngrade s extent
  | .cancel extent => Sys2Proof.Machine.execCancel s extent
  | .query extent => Sys2Proof.Machine.execQuery s extent
  | .check extent => Sys2Proof.Machine.execCheck s extent
  | .list extent => Sys2Proof.Machine.execList s extent
  | .detach extent => Sys2Proof.Machine.execDetach s extent
  | .linkConfig extent => Sys2Proof.Machine.execLinkConfig s extent
  | .status extent => Sys2Proof.Machine.execStatus s extent
  | .caps extent => Sys2Proof.Machine.execCaps s extent
  | .pinTable extent => Sys2Proof.Machine.execPinTable s extent
  | .pin extent => Sys2Proof.Machine.execPin s extent
  | .unpin extent => Sys2Proof.Machine.execUnpin s extent
  | .revoke extent => Sys2Proof.Machine.execRevoke s extent
  | .forceDetach extent => Sys2Proof.Machine.execForceDetach s extent
  | .setTick extent => Sys2Proof.Machine.execSetTick s extent
  | .clear extent => Sys2Proof.Machine.execClear s extent
  | .unknownRequest extent => Sys2Proof.Machine.execUnknownRequest s extent
  | .advance beginStep doneStep => Sys2Proof.Machine.execAdvance beginStep doneStep s
  | .pinWrite dataStep validStep voidStep => Sys2Proof.Machine.execPinWrite dataStep validStep voidStep s
  | .pinVoid voidStep => Sys2Proof.Machine.execPinVoid voidStep s
  | .pendingAdvanceStart => Sys2Proof.Machine.execPendingAdvanceStart s
  | .expiry => Sys2Proof.Machine.execExpiry s
  | .timeout => Sys2Proof.Machine.execTimeout s
  | .loadCompletion => Sys2Proof.Machine.execLoadCompletion s
  | .advanceCompletion => Sys2Proof.Machine.execAdvanceCompletion s
  | .pinWriteCompletion => Sys2Proof.Machine.execPinWriteCompletion s
  | .pinVoidCompletion => Sys2Proof.Machine.execPinVoidCompletion s
  | .selectRiseAfterReset l => Sys2Proof.Machine.execSelectRiseAfterReset l s

end Sys2Proof.Machine
end

