-- ==== Sys2Proof/Safety.lean ====
section
/-! DEFINITION. What a sound state of the part is, in the terms the statements use: the laws of the spec
that one state can show (Laws 1 to 11, where the rules number them), each with the bookkeeping that makes
it hold from step to step; and the two shapes an engine item's end takes. -/

namespace Sys2Proof.Machine

/-! ### Items in service, and how an item ends -/

/-- The engine has taken a request of the link (R149, R154, R162). -/
def State.serving (s : State) (l : Link) (code seq : Byte) (client : Client) (p : List Byte) : Prop :=
  s.inService = some (.request l ⟨code, seq, client, p⟩)

/-- The engine has taken an item of the internal work list. -/
def State.servingItem (s : State) (item : WorkItem) : Prop := s.inService = some (.internal item)

/-- A request of the link has had its claims and its posts made, and its response is held back (R156). -/
def State.holdsBack (s : State) (l : Link) (r : Response) : Prop :=
  s.inService = some (.answering l r)

/-- The rows of the requests, each with its code, its payload length and whether it is reserved to Link A
(R154, R188). -/
def requestForms : List ((Extent → Instr) × Byte × Nat × Bool) :=
  [(fun e => .acquire e, 0x10, 17, false), (fun e => .renew e, 0x11, 9, false),
   (fun e => .release e, 0x12, 7, false), (fun e => .downgrade e, 0x13, 7, false),
   (fun e => .cancel e, 0x14, 2, false), (fun e => .query e, 0x20, 2, false),
   (fun e => .check e, 0x21, 7, false), (fun e => .list e, 0x22, 2, false),
   (fun e => .detach e, 0x30, 1, false), (fun e => .linkConfig e, 0x31, 4, false),
   (fun e => .status e, 0x32, 1, false), (fun e => .caps e, 0x33, 0, false),
   (fun e => .pinTable e, 0x34, 1, false), (fun e => .pin e, 0x40, 4, true),
   (fun e => .unpin e, 0x41, 1, true), (fun e => .revoke e, 0x42, 2, true),
   (fun e => .forceDetach e, 0x43, 1, true), (fun e => .setTick e, 0x44, 2, true),
   (fun e => .clear e, 0x45, 0, true)]

/-- The rows of the requests, each serving its request to its end. -/
def requestRows : List (Instr × Byte × Nat × Bool) :=
  requestForms.map fun x => (x.1 .toItsEnd, x.2)

/-- The row serves requests of the code: a request row its own code, UNKNOWN_REQUEST every code that is no
request code (R153, R154). -/
def servesCode (row : Extent → Instr) (code : Byte) : Prop :=
  (∃ x ∈ requestForms, x.1 = row ∧ x.2.1 = code)
    ∨ ((row = fun e => .unknownRequest e) ∧ ∀ x ∈ requestForms, x.2.1 ≠ code)

/-- The payload of an ACQUIRE; `rest` fills the entry places beyond the set, which are not examined
(R21, R188). -/
def acquirePayload (duration limit : Word) (set : List Entry) (rest : List Byte) : List Byte :=
  wordBytes duration ++ wordBytes limit ++ natByte set.length
    ++ set.flatMap (fun e => wordBytes e.tag ++ [e.mode.byte]) ++ rest

/-- The engine item ends with a response to its link (R155). -/
def State.replies (s : State) (l : Link) (code seq : Byte) (o : OutcomeCode) (p : Payload) : State :=
  s.respond l ⟨code, seq, o, p⟩

/-- The promotion pass, and after it the retirement of emptied records (R11, R52). -/
def State.passAndRetire (s : State) : State := s.promotionPass.retire

/-! ### Links and arbiter (R148, R149, R164, R170) -/

/-- Law 2: FIFOs and response queues keep to their depths, a request is in service, or its response held
back, only with a free response entry, a free engine has nothing left to take, and no response is longer
than 40 bytes (R155). -/
structure LinkLaw (s : State) : Prop where
  fifo : ∀ l, (s.link l).fifo.length ≤ 4
  responses : ∀ l, (s.link l).responses.length ≤ 8
  room : ∀ l f, s.inService = some (.request l f) → (s.link l).responses.length < 8
  held : ∀ l r, s.holdsBack l r → (s.link l).responses.length < 8 ∧ r.bytes.length ≤ 40
  settled : s.inService = none → ∀ src, s.eligible src = false
  sizes : ∀ l, ∀ r ∈ (s.link l).responses, r.bytes.length ≤ 40

/-! ### Waits, queues and notices (R42, R48, R130) -/

/-- The creation order lists every live wait, once (R42). -/
structure CreationLists (s : State) : Prop where
  nodup : s.creation.Nodup
  live : ∀ w, w ∈ s.creation ↔ (s.wait w).isSome = true

/-- The live waits whose owner link is the link. -/
def State.waitsOn (s : State) (l : Link) : Nat :=
  s.creation.countP fun w => (s.wait w).any fun x => x.owner.link == l

/-- Law 3 (R130): every reservation belongs to a live wait, or on Link A to a pin operation in flight,
and stored and reserved together never exceed 32. -/
structure NoticeLaw (s : State) : Prop where
  lists : CreationLists s
  reserved : ∀ l, (s.noticeQueue l).reserved
    = s.waitsOn l + (if l = .a then s.pinOps.length else 0)
  room : ∀ l, (s.noticeQueue l).stored.length + (s.noticeQueue l).reserved ≤ 32

/-- The directory is in its canonical form: tags strictly rising (entry 18). -/
def State.sorted (s : State) : Prop := (s.directory.map Record.tag).Pairwise (· < ·)

/-- The wait in the slot asks for the tag. -/
def State.asksFor (s : State) (tag : Tag) (w : WaitSlot) : Bool :=
  (s.wait w).any fun x => (tagsOf x.set).contains tag

/-- Law 5 (R48): order in a queue is creation order, restricted to the waits on that tag; and a wait
stands in the queue of every tag of its set (R5). -/
structure QueueLaw (s : State) : Prop where
  sorted : s.sorted
  lists : CreationLists s
  queues : ∀ r ∈ s.directory, r.queue = s.creation.filter (s.asksFor r.tag)
  records : ∀ w x, s.wait w = some x → ∀ tag ∈ tagsOf x.set, (s.record? tag).isSome = true

/-- The wait meets the grant rule (R49). -/
def State.grantable (s : State) (w : WaitSlot) (x : Wait) : Bool :=
  s.standsFirst w x.set && s.admitsAll x.set && s.freeLease?.isSome && s.tokens.state == .ready

/-! ### The load, the token unit and the store (R63, R86, R94, R101, R104, R115) -/

def WorkItem.isLoad : WorkItem → Bool
  | .load _ _ => true
  | .expiry _ _ | .timeout _ _ | .advance _ _ | .pinWrite _ _ | .pinVoid _ _ => false

def WorkItem.isAdvance : WorkItem → Bool
  | .advance _ _ => true
  | .expiry _ _ | .timeout _ _ | .load _ _ | .pinWrite _ _ | .pinVoid _ _ => false

/-- The items in the engine's hands: the one in service and those on the list. -/
def State.items (s : State) : List WorkItem :=
  match s.inService with
  | some (.internal item) => item :: s.workList
  | some (.request _ _) | some (.answering _ _) | none => s.workList

/-- The load items not yet served. -/
def State.loads (s : State) : Nat := s.items.countP WorkItem.isLoad

/-- The advances asked of the store and not yet served: running, held pending, or ended with their item
waiting (R86, R104). -/
def State.advances (s : State) : Nat :=
  (match s.store.controller with
    | .busyAdvance _ => 1
    | .loading | .idle | .busyPinWrite _ | .busyPinVoid _ => 0)
    + (if s.store.pendingAdvance then 1 else 0) + s.items.countP WorkItem.isAdvance

/-- The course of a load (R111, R114, R115): there is one load item at most, the part is loading until it
has been served, and until then no wait stands, the token unit is as reset left it and no advance is
asked. -/
structure LoadLaw (s : State) : Prop where
  once : s.loads ≤ 1
  reading : s.store.controller = .loading → s.loading = true ∧ s.loads = 0
  waiting : 0 < s.loads → s.loading = true
  calm : s.loading = true → s.creation = [] ∧ s.tokens = .reset ∧ s.advances = 0

/-- Law 9 (R63): while the token unit is in FAULT or EXHAUSTED, the wait table is empty. -/
structure EndedUnitLaw (s : State) : Prop where
  lists : CreationLists s
  load : LoadLaw s
  empty : s.tokens.state = .fault ∨ s.tokens.state = .exhausted → s.creation = []

/-- The store is advancing to the step, or has done so well with the item not yet served. -/
def State.advancingTo (s : State) (n : Nat) : Prop :=
  s.store.controller = .busyAdvance n ∨ .advance n .good ∈ s.items

/-- A number above every token issued so far in this power cycle: the next token in READY, and in the
other states the first of the epoch after the current one (R83, R89). -/
def TokenUnit.bound (u : TokenUnit) : Nat :=
  match u.state with
  | .ready => u.next.toNat
  | .unarmed | .advancing | .fault | .exhausted => (u.epoch.toNat + 1) * 16777216

/-- Law 4 as one state shows it (R84, R86, R89, R94, R101): no two ACTIVE leases share a token, the token of
each is below the next one to be issued, and the next epoch is above the current one; one advance at most is
asked at a time, from ADVANCING; outside the load the begun count is the cells'. -/
structure TokenLaw (s : State) : Prop where
  load : LoadLaw s
  once : s.advances ≤ 1
  asked : s.tokens.state ≠ .advancing → s.advances = 0
  serial : s.tokens.state ≠ .ready → s.tokens.serial = 0
  ready : s.tokens.state = .ready → s.tokens.epoch ≠ 0 ∧ s.tokens.serial ≠ 0
  epoch : s.tokens.epoch.toNat ≤ s.store.begun
  steps : ∀ n, s.advancingTo n → s.tokens.epoch.toNat < n ∧ n ≤ s.store.begun ∧ n ≤ 65535
  counted : s.store.controller ≠ .loading → s.store.begun = s.cells.begunCount
  below : ∀ i x, s.lease i = some x → x.state = .active →
    x.token ≠ 0 ∧ x.token.toNat < s.tokens.bound
  distinct : ∀ i j x y, s.lease i = some x → s.lease j = some y →
    x.state = .active → y.state = .active → x.token = y.token → i = j

/-! ### The clock's items (R69, R70, R71, R74) -/

/-- The item is the clock's, for the countdown. -/
def WorkItem.clocks (n : CountdownName) : WorkItem → Bool
  | .expiry i _ => n == .lease i
  | .timeout i _ => n == .wait i
  | .load _ _ | .advance _ _ | .pinWrite _ _ | .pinVoid _ _ => false

/-- R74: a countdown's mark is set while one item of the clock stands for it and clear while none does,
and a countdown running at 0 has its item; start and reload values are at least 1 (R70, R71). -/
structure ClockLaw (s : State) : Prop where
  marks : ∀ n, s.items.countP (WorkItem.clocks n) = if (s.countdown n).mark then 1 else 0
  ended : ∀ n, (s.countdown n).runOut = true → (s.countdown n).mark = true
  leases : ∀ i x, s.lease i = some x → x.state = .active → ∃ d, x.duration = some d ∧ d ≠ 0
  waits : ∀ w x, s.wait w = some x → x.duration ≠ 0 ∧ x.limit ≠ 0

/-! ### Canonical forms (R2, R11, R101) -/

/-- Law 8 and the two canonical forms: the directory holds no empty record and its tags strictly rise;
the epoch cells list no blank step and their numbers strictly rise. -/
structure CanonicalForms (s : State) : Prop where
  sorted : s.sorted
  inUse : ∀ r ∈ s.directory, r.isEmpty = false
  epochs : (s.cells.epochs.map Prod.fst).Pairwise (· < ·)
  marks : ∀ e ∈ s.cells.epochs, e.2 ≠ .blank

/-! ### Holders and pins (R6, R9, R116, R125) -/

/-- The pin state that a pin operation in flight gives its tag (R118, R122). -/
def PinOp.phase (e : PinOp) : PinState :=
  match e.kind with
  | .write => .pinning e.slot
  | .void => .unpinning e.slot

/-- The item is the completion of a pin write of the slot. -/
def WorkItem.writes (k : PinSlot) : WorkItem → Bool
  | .pinWrite i _ => i == k
  | .expiry _ _ | .timeout _ _ | .load _ _ | .advance _ _ | .pinVoid _ _ => false

/-- The item is the completion of a pin void of the slot. -/
def WorkItem.voids (k : PinSlot) : WorkItem → Bool
  | .pinVoid i _ => i == k
  | .expiry _ _ | .timeout _ _ | .load _ _ | .advance _ _ | .pinWrite _ _ => false

/-- The pin writes of a slot that are running or have their item waiting. -/
def State.writesOf (s : State) (k : PinSlot) : Nat :=
  (if s.store.controller = .busyPinWrite k then 1 else 0) + s.items.countP (WorkItem.writes k)

/-- The pin voids of a slot that are running or have their item waiting. -/
def State.voidsOf (s : State) (k : PinSlot) : Nat :=
  (if s.store.controller = .busyPinVoid k then 1 else 0) + s.items.countP (WorkItem.voids k)

/-- Law 1 with the bookkeeping of the pins: an exclusive holder stands alone on its tag (R6); a tag that
is pinning has no holder, and a tag with a pin state no waiter (R9); each pin operation in flight has its
record and its one run in the store, and no two name one slot (R116); the records name pin slots apart,
none of them BLANK (R125); the sets of the waits have distinct tags (R1). -/
structure HolderLaw (s : State) : Prop where
  load : LoadLaw s
  empty : s.loading = true →
    s.directory = [] ∧ s.pinOps = [] ∧ ∀ k, s.writesOf k + s.voidsOf k = 0
  loaded : ∀ begun active, .load begun active ∈ s.items →
    (active.map fun p => p.2.tag).Nodup ∧ (active.map Prod.fst).Nodup
      ∧ ∀ p ∈ active, s.store.slots[p.1].state = .active
  sorted : s.sorted
  phases : ∀ e ∈ s.pinOps, ∃ r ∈ s.directory, r.tag = e.tag ∧ r.pin = e.phase
  apart : (s.pinOps.map PinOp.slot).Nodup
  once : ∀ k, s.writesOf k + s.voidsOf k ≤ 1
  writes : ∀ k, 0 < s.writesOf k → ∃ e ∈ s.pinOps, e.slot = k ∧ e.kind = .write
  voids : ∀ k, 0 < s.voidsOf k → ∃ e ∈ s.pinOps, e.slot = k ∧ e.kind = .void
  named : ∀ r ∈ s.directory, ∀ q ∈ s.directory, r.pin ≠ .unpinned →
    r.pin.slot? = q.pin.slot? → r = q
  spent : ∀ r ∈ s.directory, ∀ k, r.pin.slot? = some k → s.store.slots[k].state ≠ .blank
  queues : ∀ r ∈ s.directory, r.pin ≠ .unpinned → r.queue = []
  settling : ∀ r ∈ s.directory, r.pin.settling = true → r.holders = []
  sets : ∀ w x, s.wait w = some x → (tagsOf x.set).Nodup
  exclusive : ∀ r ∈ s.directory, ∀ h ∈ r.holders, h.mode = .exclusive → r.holders = [h]

end Sys2Proof.Machine
end

