-- ==== Sys2Proof/Certificates/Slice0/Obligations.lean ====
section
/-! DEFINITION. The statements for the provers, chapter by chapter. A statement about a command gives the
next state whole, as the old state with the fields named replaced, so that everything not named is
unchanged; an engine item ends with `endItem`, whose decision is `ArbiterTakesTheFirstEligibleSource`'s. -/

open Sys2Proof Sys2Proof.Machine

/-! ### Steps, the arbiter, reset -/

/-- A step takes the command at the front of the queue and carries it out with the queue's rest; on an
empty queue the part stays as it is. The queue is the model's own (entry 2). -/
def Obligations.StepTakesTheFrontCommand : Prop :=
  ∀ (s : State),
    (∀ c rest, s.pending = c :: rest → step s = exec c { s with pending := rest })
      ∧ (s.pending = [] → step s = .next s)

/-- Every command answers a next state in every state, and leaves the queue of commands to the sender:
the part has no fault (entry 23). -/
def Obligations.EveryCommandAnswersAndKeepsTheQueue : Prop :=
  ∀ (c : Instr) (s : State), ∃ t, exec c s = .next t ∧ t.pending = s.pending

/-- R148, R149: the sources stand in one fixed cycle; a link is eligible with a frame in its FIFO and fewer
than 8 responses, the list with an item; a free engine takes the oldest work of the first eligible source
after the arbiter position, which that source becomes; with none eligible, and while an item is in
service, nothing changes. -/
def Obligations.ArbiterTakesTheFirstEligibleSource : Prop :=
  ∀ (s : State),
    (∀ src, ∃ n, Source.cycleAfter src
        = [Source.internal, .link .a, .link .b, .link .c, .link .d].rotateLeft n
      ∧ (Source.cycleAfter src).getLast? = some src)
    ∧ (s.eligible .internal = true ↔ s.workList ≠ [])
    ∧ (∀ l, s.eligible (.link l) = true ↔ (s.link l).fifo ≠ [] ∧ (s.link l).responses.length < 8)
    ∧ (s.inService.isSome = true → s.arbitrate = s)
    ∧ ((∀ src, s.eligible src = false) → s.arbitrate = s)
    ∧ (∀ before src after, s.inService = none → s.arbiter.cycleAfter = before ++ src :: after →
        (∀ x ∈ before, s.eligible x = false) → s.eligible src = true →
        (∀ item rest, src = .internal → s.workList = item :: rest → s.arbitrate =
          { s with workList := rest, arbiter := src, inService := some (.internal item) })
        ∧ (∀ l frame rest, src = .link l → (s.link l).fifo = frame :: rest → s.arbitrate =
          { s with
            links := s.links.set l { s.link l with fifo := rest }
            arbiter := src
            inService := some (.request l frame) }))

/-- Device reset leaves every piece of state but the cells and the sender's queue at the value the spec
gives it (R2, R18, R41, R66, R69, R84, R104, R116, R129, R144, R160); attention is released and DOUT is
high-impedance. At the rise of RESET# a link whose select is low waits for it to rise, and any other is ready for its window; the rise of
such a select makes its link ready (R160). -/
def Obligations.ResetValuesAndTheReleaseOfReset : Prop :=
  (∀ (tear : Tear) (s : State), ∃ t, exec (.deviceReset tear) s = .next t
    ∧ t.cells = s.tornCells tear ∧ t.pending = s.pending ∧ t.resetLow = true
    ∧ (∀ l, (t.link l).receiver = .idle ∧ (t.link l).fifo = [] ∧ (t.link l).responses = []
        ∧ (t.link l).presented = false ∧ (t.link l).settings = ⟨true, false, 1, true⟩
        ∧ (t.link l).crcCount = 0 ∧ (t.link l).frameCount = 0 ∧ (t.link l).overrunCount = 0
        ∧ (t.link l).errorFlag = false ∧ t.noticeQueue l = ⟨[], 0, 0, false⟩
        ∧ t.attention l = false ∧ t.output l = .highZ)
    ∧ t.loading = true ∧ t.arbiter = .internal ∧ t.inService = none ∧ t.workList = []
    ∧ t.directory = [] ∧ t.creation = [] ∧ t.pinOps = []
    ∧ (∀ i, t.lease i = none ∧ (t.nextHandle i).gen = 1)
    ∧ (∀ w, t.wait w = none ∧ stepGeneration t.waitGens[w] = 1)
    ∧ t.dividerInForce = 19 ∧ t.dividerRequested = 19
    ∧ (∀ n, t.countdown n = ⟨false, 0, 0, false⟩)
    ∧ t.tokens = ⟨.unarmed, 0, 0⟩
    ∧ t.store.controller = .loading ∧ t.store.pendingAdvance = false)
  ∧ ∀ (s : State),
    (∀ low, s.resetLow = true → ∃ t, exec (.resetRelease low) s = .next t
      ∧ t = { s with resetLow := false, links := t.links }
      ∧ ∀ l, t.link l
        = { s.link l with receiver := if low.get l then .lowSinceReset else .idle })
    ∧ (∀ l, s.resetLow = false → (s.link l).receiver = .lowSinceReset →
      exec (.selectRiseAfterReset l) s
        = .next (s.setLink l { s.link l with receiver := .idle }))

/-- R110: a reset uses up what was being programmed. A torn advance's step counts as begun; a torn pin
write and a torn pin void read VOID at the next load; a tear that had begun no step leaves the cells as they
stood; and no cell of another step or slot changes. How far an operation had come is the command's operand
(entry 12). -/
def Obligations.TornOperationsReadAsUsed : Prop :=
  ∀ (tear : Tear) (s : State), ∃ t, exec (.deviceReset tear) s = .next t
    ∧ (tear = .asTheyStand → t.cells = s.cells)
    ∧ (∀ n c, s.store.controller = .busyAdvance n → tear = .advanceBegin c ∨ tear = .advanceDone c →
        n ≤ t.cells.begunCount ∧ s.cells.begunCount ≤ t.cells.begunCount
          ∧ t.cells.pins = s.cells.pins
          ∧ ∀ m, m ≠ n → epochMarks m t.cells.epochs = epochMarks m s.cells.epochs)
    ∧ (∀ (k : PinSlot) b c, s.store.controller = .busyPinWrite k →
        tear = .writeData ∨ tear = .writeValid b ∨ tear = .writeVoid b c →
        (∀ old, (t.cells.entry k old).state = .void) ∧ t.cells.epochs = s.cells.epochs
          ∧ ∀ j : PinSlot, j ≠ k → t.cells.pins[j] = s.cells.pins[j])
    ∧ (∀ (k : PinSlot) c, s.store.controller = .busyPinVoid k → tear = .voidMark c →
        (∀ old, (t.cells.entry k old).state = .void) ∧ t.cells.epochs = s.cells.epochs
          ∧ ∀ j : PinSlot, j ≠ k → t.cells.pins[j] = s.cells.pins[j])

/-- What finds nothing to act on changes nothing (entry 3, the model's choice for events that cannot
happen; R160 and R66 for the time RESET# is low): a stretch of a window that does not fit the link's
receiver, and any while RESET# is low; a release of RESET# that is high; a rise of select on a link that
waits for none; ticks and countdowns while RESET# is low; the load's end outside the load; a pending start
with none pending or the store not IDLE; a request row whose code is not that of the request in service or
of the response held back; an item row whose kind is not that of the item in service; and the end of a
store operation that is not the one running. -/
def Obligations.WhatFindsNothingChangesNothing : Prop :=
  ∀ (s : State),
    (∀ l (w : Segment), s.resetLow = true ∨ (w.falls = true ∧ (s.link l).receiver ≠ .idle)
        ∨ (w.falls = false ∧ ((s.link l).receiver = .idle ∨ (s.link l).receiver = .lowSinceReset)) →
      ∀ c ∈ [Instr.requestFrame l w, .fetchResponse l w, .fetchDiscardResponse l w, .fetchNotice l w,
        .fetchDiscardNotice l w], exec c s = .next s)
    ∧ (∀ l b, s.resetLow = true ∨ (s.link l).receiver ≠ .idle → exec (.statusRead l b) s = .next s)
    ∧ (∀ low, s.resetLow = false → exec (.resetRelease low) s = .next s)
    ∧ (∀ l, s.resetLow = true ∨ (s.link l).receiver ≠ .lowSinceReset →
      exec (.selectRiseAfterReset l) s = .next s)
    ∧ (s.resetLow = true → exec .tick s = .next s ∧ ∀ n, exec (.countdownReachesZero n) s = .next s)
    ∧ (s.resetLow = true ∨ s.store.controller ≠ .loading → exec .startUpLoad s = .next s)
    ∧ (s.resetLow = true ∨ s.store.controller ≠ .idle ∨ s.store.pendingAdvance = false →
      exec .pendingAdvanceStart s = .next s)
    ∧ (∀ form ∈ requestForms, ∀ extent,
      (∀ l seq client p, ¬ s.serving l form.2.1 seq client p) →
      (∀ l r, s.holdsBack l r → r.code ≠ form.2.1) → exec (form.1 extent) s = .next s)
    ∧ (∀ extent,
      (∀ l code seq client p, s.serving l code seq client p → ∃ form ∈ requestForms, form.2.1 = code) →
      (∀ l r, s.holdsBack l r → ∃ form ∈ requestForms, form.2.1 = r.code) →
      exec (.unknownRequest extent) s = .next s)
    ∧ ((∀ i g, ¬ s.servingItem (.expiry i g)) → exec .expiry s = .next s)
    ∧ ((∀ w g, ¬ s.servingItem (.timeout w g)) → exec .timeout s = .next s)
    ∧ ((∀ n active, ¬ s.servingItem (.load n active)) → exec .loadCompletion s = .next s)
    ∧ ((∀ n r, ¬ s.servingItem (.advance n r)) → exec .advanceCompletion s = .next s)
    ∧ ((∀ k r, ¬ s.servingItem (.pinWrite k r)) → exec .pinWriteCompletion s = .next s)
    ∧ ((∀ k r, ¬ s.servingItem (.pinVoid k r)) → exec .pinVoidCompletion s = .next s)
    ∧ (∀ x y, (∀ n, s.store.controller ≠ .busyAdvance n) → exec (.advance x y) s = .next s)
    ∧ (∀ x y z, (∀ k, s.store.controller ≠ .busyPinWrite k) → exec (.pinWrite x y z) s = .next s)
    ∧ (∀ x, (∀ k, s.store.controller ≠ .busyPinVoid k) → exec (.pinVoid x) s = .next s)

/-! ### The lease clock -/

/-- R73: at a tick every running countdown above 0 falls by 1, and the item of each that reaches 0 with
its mark clear is appended and its mark set, lease countdowns first, each in slot order, with the
generation the countdown holds; R67: the divider requested comes into force. -/
def Obligations.TickStepsEveryCountdown : Prop :=
  ∀ (s : State), s.resetLow = false →
    let after : Countdown → Countdown := fun c =>
      if c.running = true ∧ c.value ≠ 0 then
        { c with value := c.value - 1, mark := c.mark || c.value == 1 }
      else c
    let due : Countdown → Bool := fun c => c.running && c.value == 1 && !c.mark
    exec .tick s = .next ({ s with
      dividerInForce := s.dividerRequested
      leaseClock := Vector.ofFn fun i => after s.leaseClock[i]
      waitClock := Vector.ofFn fun w => after s.waitClock[w]
      workList := s.workList
        ++ ((List.finRange 256).filter fun i => due s.leaseClock[i]).map
          (fun i => .expiry i s.leaseClock[i].gen)
        ++ ((List.finRange 128).filter fun w => due s.waitClock[w]).map
          (fun w => .timeout w s.waitClock[w].gen) } : State).arbitrate

/-- R74: a countdown that is running at 0 has an item appended when its mark is clear, and the mark set;
so the clearing of a mark at an item's service is followed at once by a new item when the countdown is
then running at 0. That a row of its own finds the item of a tick already appended is the model's choice
(entry 6). -/
def Obligations.ARunOutCountdownGetsItsItem : Prop :=
  ∀ (s : State) (n : CountdownName),
    let c := s.countdown n
    let append (u : State) : State := { u with workList := u.workList ++ [clockItem n c.gen] }
    (s.resetLow = false → c.runOut = true → c.mark = false →
      exec (.countdownReachesZero n) s
        = .next (append (s.setCountdown n { c with mark := true })).arbitrate)
    ∧ (s.resetLow = false → c.runOut = false ∨ c.mark = true →
      exec (.countdownReachesZero n) s = .next s.arbitrate)
    ∧ (c.runOut = true → s.clearMark n = append (s.setCountdown n { c with mark := true }))
    ∧ (c.runOut = false → s.clearMark n = s.setCountdown n { c with mark := false })

/-- R68: a divider of 0 to 1999 is written as the divider requested and answered DONE; one above 1999 is
refused BAD_PARAM. -/
def Obligations.SetTickWritesTheDividerRequested : Prop :=
  ∀ (s : State) (seq : Byte) (client : Client) (d : Word),
    s.loading = false → s.serving .a 0x44 seq client (wordBytes d) →
    exec .setTick s = .next
      (if d.toNat ≤ 1999 then
        ({ s with dividerRequested := d } : State).replies .a 0x44 seq .done (.divider d)
      else s.replies .a 0x44 seq .badParam .empty)

/-- R77, R78, R79: an expiry item takes effect on an ACTIVE lease of its generation whose countdown is
running at 0: the lease is removed, EXPIRED posted, a pass run. A timeout item takes effect on a live wait
likewise: the wait is removed, WAIT_TIMEOUT posted into its reservation, a pass run. Otherwise the item is
discarded. Either way the mark is cleared (R74). -/
def Obligations.ClockItemsEndWhatHasRunOut : Prop :=
  ∀ (s : State) (g : Generation),
    (∀ i : LeaseSlot, s.servingItem (.expiry i g) →
      (∀ x, s.lease i = some x → x.state = .active → x.gen = g → s.leaseClock[i].running = true →
        s.leaseClock[i].value = 0 →
        exec .expiry s = .next ((((s.removeLease i).postUnreserved x.owner.link
          (.expired x.owner.client ⟨i, g⟩ x.token)).passAndRetire.clearMark (.lease i)).endItem))
      ∧ ((∀ x, s.lease i = some x → x.state = .active → x.gen = g →
          s.leaseClock[i].running = true → s.leaseClock[i].value ≠ 0) →
        exec .expiry s = .next (s.clearMark (.lease i)).endItem))
    ∧ (∀ w : WaitSlot, s.servingItem (.timeout w g) →
      (∀ x, s.wait w = some x → x.gen = g → s.waitClock[w].running = true →
        s.waitClock[w].value = 0 →
        exec .timeout s = .next ((((s.removeWait w).postReserved x.owner.link
          (.waitTimeout x.owner.client ⟨w, g⟩)).passAndRetire.clearMark (.wait w)).endItem))
      ∧ ((∀ x, s.wait w = some x → x.gen = g →
          s.waitClock[w].running = true → s.waitClock[w].value ≠ 0) →
        exec .timeout s = .next (s.clearMark (.wait w)).endItem))

/-! ### The nonvolatile store -/

/-- R112: how the load reads the cells: the begun count is the highest step whose begin mark is not blank;
a slot is ACTIVE with its valid mark complete, its data check passing, its void mark blank and no lower
such slot of its tag, BLANK with every group blank, and VOID otherwise; R102: its data are shown exactly
when the data check passes. -/
def Obligations.TheLoadReadsTheCells : Prop :=
  ∀ (c : Cells) (k : PinSlot) (old : SlotEntry),
    let passes (j : PinSlot) (d : PinData) : Prop :=
      c.pins[j].data = .complete .asWritten d d.check ∧ d.tag ≠ 0
    let would (j : PinSlot) (d : PinData) : Prop :=
      passes j d ∧ c.pins[j].valid = .complete ∧ c.pins[j].void = .blank
    let first (d : PinData) : Prop := ∀ j e, j < k → would j e → e.tag ≠ d.tag
    (∀ e ∈ c.epochs, e.2.beginMark ≠ .blank → e.1 ≤ c.begunCount)
    ∧ (c.begunCount = 0
      ∨ ∃ e ∈ c.epochs, e.2.beginMark ≠ .blank ∧ e.1 = c.begunCount)
    ∧ (∀ d, would k d → first d → c.entry k old = ⟨.active, d, true⟩)
    ∧ (c.pins[k] = ⟨.blank, .blank, .blank⟩ → c.entry k old = ⟨.blank, old.data, false⟩)
    ∧ ((∀ d, would k d → ¬ first d) → c.pins[k] ≠ ⟨.blank, .blank, .blank⟩ →
      (∀ d, passes k d → c.entry k old = ⟨.void, d, true⟩)
      ∧ ((∀ d, ¬ passes k d) → c.entry k old = ⟨.void, old.data, false⟩))

/-- R111: the reading's end sets the begun count, the slot table and the serial from the cells, appends
the load's item, with the begun count and the ACTIVE slots in slot order, and leaves the controller
IDLE. -/
def Obligations.StartUpLoadSetsTheStore : Prop :=
  ∀ (s : State), s.resetLow = false → s.store.controller = .loading →
    ∃ active : List (PinSlot × PinData),
      exec .startUpLoad s = .next ({ s with
        store :=
          { controller := .idle
            pendingAdvance := s.store.pendingAdvance
            begun := s.cells.begunCount
            slots := Vector.ofFn fun k => s.cells.entry k s.store.slots[k]
            serial := s.cells.serial }
        workList := s.workList ++ [.load s.cells.begunCount active] } : State).arbitrate
      ∧ (active.map Prod.fst).Pairwise (· < ·)
      ∧ ∀ k d, (k, d) ∈ active ↔
        s.cells.entry k s.store.slots[k] = ⟨.active, d, true⟩

/-- R114: the load's item, served on empty tables, gives the ACTIVE slots in their order the lease slots
0, 1, 2 and upward, each a PINNED lease of generation 1 with token 0 and no duration, holding its tag alone
and exclusive under a record with last token 0; the unit is EXHAUSTED when every step is begun (R85), and
the part is ready. -/
def Obligations.LoadCompletionMakesThePins : Prop :=
  ∀ (s : State) (begun : Nat) (active : List (PinSlot × PinData)),
    s.servingItem (.load begun active) → s.directory = [] → (∀ i, s.lease i = none) →
    (∀ i : LeaseSlot, s.leaseGens[i] = 0) → active.length ≤ 24 →
    (active.map fun p => p.2.tag).Nodup →
    ∃ u : State, exec .loadCompletion s = .next u.endItem
      ∧ u = { s with
          loading := false
          tokens := if begun = 65535 then { s.tokens with state := .exhausted } else s.tokens
          directory := u.directory
          leases := u.leases
          leaseGens := u.leaseGens }
      ∧ u.directory.length = active.length
      ∧ ∀ i : LeaseSlot,
        (∀ p, active[i.val]? = some p →
          u.lease i = some ⟨1, p.2.owner, [⟨p.2.tag, .exclusive⟩], 0, none, .pinned⟩
          ∧ u.leaseGens[i] = 1
          ∧ u.record? p.2.tag = some ⟨p.2.tag, [⟨i, .exclusive⟩], [], 0, .pinned p.1⟩)
        ∧ (active.length ≤ i.val → u.lease i = none ∧ u.leaseGens[i] = 0)

/-- R107 to R109, with R100 for what a failed step leaves (entry 13): each operation's end sets its cells
and its slot's state, appends its completion item and leaves the controller IDLE; the done step and the
valid step count only after a good step before them; a slot whose write or void has ended is ACTIVE after
a good write and VOID otherwise; and a write of one epoch step's marks reaches that step alone. -/
def Obligations.StoreOperationsAppendTheirItems : Prop :=
  ∀ (s : State), s.store.pendingAdvance = false →
    let mark : StepResult → Mark := fun r => match r with | .good => .complete | .failed => .partly
    let ends (u : State) (item : WorkItem) : State :=
      ({ u with workList := u.workList ++ [item] }.setController .idle).arbitrate
    (∀ n r, s.store.controller = .busyAdvance n →
      exec (.advance .good r) s
        = .next (ends (s.setEpochMarks n ⟨.complete, mark r⟩) (.advance n r))
      ∧ exec (.advance .failed r) s
        = .next (ends (s.setEpochMarks n ⟨.partly, .blank⟩) (.advance n .failed)))
    ∧ (∀ (k : PinSlot) r v, s.store.controller = .busyPinWrite k →
      let x := s.store.slots[k]
      let cells := s.cells.pins[k]
      let written : DataCells := .complete .asWritten x.data x.data.check
      exec (.pinWrite .good .good v) s
        = .next (ends ((s.setPinCells k ⟨written, .complete, cells.void⟩).setSlotEntry k
          ⟨.active, x.data, true⟩) (.pinWrite k .good))
      ∧ exec (.pinWrite .good .failed v) s
        = .next (ends ((s.setPinCells k ⟨written, .partly, mark v⟩).setSlotEntry k
          ⟨.void, x.data, true⟩) (.pinWrite k .failed))
      ∧ exec (.pinWrite .failed r v) s
        = .next (ends ((s.setPinCells k ⟨.partly, cells.valid, mark v⟩).setSlotEntry k
          ⟨.void, x.data, x.shown⟩) (.pinWrite k .failed)))
    ∧ (∀ (k : PinSlot) v, s.store.controller = .busyPinVoid k →
      exec (.pinVoid v) s
        = .next (ends ((s.setPinCells k { s.cells.pins[k] with void := mark v }).setSlotEntry k
          { s.store.slots[k] with state := .void }) (.pinVoid k v)))
    ∧ (∀ n (m : EpochMarks), m ≠ .blank →
      let t := s.setEpochMarks n m
      t = { s with cells := { s.cells with epochs := t.cells.epochs } }
      ∧ epochMarks n t.cells.epochs = m
      ∧ ∀ k, k ≠ n → epochMarks k t.cells.epochs = epochMarks k s.cells.epochs)

/-- R104: an advance held pending is started at the moment the operation before it ends, whose cells, slot
and item are as R108 and R109 give (entry 13 for a failed step). The advance takes the step after the begun
count (R107); that the count rises to it and its begin mark ceases to be blank in that same moment is
entry 21. With every step begun a failed item is appended at once in place of it (R107; entry 22). The row
of its own finds the start made (entry 7); with the controller IDLE and the flag set it does the same. -/
def Obligations.APendingAdvanceStartsAtOnce : Prop :=
  ∀ (s : State), s.store.pendingAdvance = true →
    let step := s.store.begun + 1
    let mark : StepResult → Mark := fun r => match r with | .good => .complete | .failed => .partly
    let ends (u : State) (items : List WorkItem) : State :=
      if s.store.begun < 65535 then
        ({ u with
          workList := u.workList ++ items
          store := { u.store with
            controller := .busyAdvance step, pendingAdvance := false, begun := step }
          cells := { u.cells with epochs := putEpochMarks step ⟨.partly, .blank⟩ u.cells.epochs } } :
            State).arbitrate
      else
        ({ u with
          workList := u.workList ++ items ++ [.advance step .failed]
          store := { u.store with controller := .idle, pendingAdvance := false } } : State).arbitrate
    (∀ (k : PinSlot) r v, s.store.controller = .busyPinWrite k →
      let x := s.store.slots[k]
      let cells := s.cells.pins[k]
      let written : DataCells := .complete .asWritten x.data x.data.check
      exec (.pinWrite .good .good v) s
        = .next (ends ((s.setPinCells k ⟨written, .complete, cells.void⟩).setSlotEntry k
          ⟨.active, x.data, true⟩) [.pinWrite k .good])
      ∧ exec (.pinWrite .good .failed v) s
        = .next (ends ((s.setPinCells k ⟨written, .partly, mark v⟩).setSlotEntry k
          ⟨.void, x.data, true⟩) [.pinWrite k .failed])
      ∧ exec (.pinWrite .failed r v) s
        = .next (ends ((s.setPinCells k ⟨.partly, cells.valid, mark v⟩).setSlotEntry k
          ⟨.void, x.data, x.shown⟩) [.pinWrite k .failed]))
    ∧ (∀ (k : PinSlot) v, s.store.controller = .busyPinVoid k →
      exec (.pinVoid v) s
        = .next (ends ((s.setPinCells k { s.cells.pins[k] with void := mark v }).setSlotEntry k
          { s.store.slots[k] with state := .void }) [.pinVoid k v]))
    ∧ (s.resetLow = false → s.store.controller = .idle →
      exec .pendingAdvanceStart s = .next (ends s []))

/-- R87, R88: a good advance's item makes the unit READY in the step's epoch with next serial 1, and a pass
runs; a failed one's puts it in FAULT with its epoch kept, and every wait is aborted with reason
TOKEN_FAULT before the pass. -/
def Obligations.AdvanceCompletionArmsOrFaultsTheUnit : Prop :=
  ∀ (s : State) (n : Nat),
    (s.servingItem (.advance n .good) →
      exec .advanceCompletion s = .next
        (({ s with tokens := ⟨.ready, BitVec.ofNat 16 n, 1⟩ } : State).passAndRetire).endItem)
    ∧ (s.servingItem (.advance n .failed) →
      exec .advanceCompletion s = .next
        ((({ s with tokens := ⟨.fault, s.tokens.epoch, 0⟩ } : State).abortWaits
          .tokenFault).passAndRetire).endItem)

/-- R60: an abort removes every live wait and posts each link its waits' WAIT_ABORTED notices in creation
order, each into its reservation; the reservations left are those of no wait; leases, lease countdowns,
token unit, store and links are as they were, every wait countdown is stopped and no queue holds a
wait. -/
def Obligations.AnAbortEndsEveryWait : Prop :=
  ∀ (s : State) (reason : AbortReason), QueueLaw s →
    let t := s.abortWaits reason
    let notice (l : Link) (w : WaitSlot) : Option Notice :=
      (s.wait w).bind fun x =>
        if x.owner.link = l then some (.waitAborted x.owner.client ⟨w, x.gen⟩ reason) else none
    t = { s with
      notices := t.notices
      directory := s.directory.map fun r => { r with queue := [] }
      waits := t.waits
      creation := []
      waitClock := t.waitClock }
    ∧ (∀ w, t.wait w = none)
    ∧ (∀ w : WaitSlot, (s.wait w).isSome = true →
      t.waitClock[w] = { s.waitClock[w] with running := false, value := 0 })
    ∧ (∀ w : WaitSlot, s.wait w = none → t.waitClock[w] = s.waitClock[w])
    ∧ ∀ l, t.noticeQueue l = { s.noticeQueue l with
        stored := (s.noticeQueue l).stored ++ s.creation.filterMap (notice l)
        reserved := (s.noticeQueue l).reserved - s.waitsOn l }

/-- R119, R120: a good pin write's item makes the lease PINNED and its tag's exclusive holder and the
record pinned, and posts PIN_DONE and then PINNED; a failed one's gives the lease and the pin state up,
posts PIN_FAILED and runs a pass. R123, R124: a good pin void's item removes the lease and the pin state,
posts UNPIN_DONE and then PIN_RELEASED and runs a pass; a failed one's makes lease and record pinned again
and posts UNPIN_FAILED. In each case the entry leaves the list. -/
def Obligations.PinCompletionsSettleThePin : Prop :=
  ∀ (s : State) (k : PinSlot) (before after : List PinOp) (e : PinOp) (x : Lease),
    s.pinOps = before ++ e :: after → e.slot = k → (∀ q ∈ before, q.slot ≠ k) →
    s.lease e.leaseSlot = some x →
    (s.servingItem (.pinWrite k .good) →
      exec .pinWriteCompletion s = .next
        ((({ s with
            leases := s.leases.set e.leaseSlot (some { x with state := .pinned })
            directory := s.directory.map fun r =>
              if r.tag = e.tag then
                { r with holders := r.holders ++ [⟨e.leaseSlot, .exclusive⟩], pin := .pinned k }
              else r
            pinOps := before ++ after } : State).postReserved .a
              (.pinDone e.client k e.tag)).postUnreserved e.owner.link
                (.pinned e.owner.client e.tag k)).endItem)
    ∧ (s.servingItem (.pinWrite k .failed) →
      exec .pinWriteCompletion s = .next
        ((({ s.removeLease e.leaseSlot with
            directory := (s.removeLease e.leaseSlot).directory.map fun r =>
              if r.tag = e.tag then { r with pin := .unpinned } else r
            pinOps := before ++ after } : State).postReserved .a
              (.pinFailed e.client k e.tag)).passAndRetire).endItem)
    ∧ (s.servingItem (.pinVoid k .good) →
      exec .pinVoidCompletion s = .next
        (((({ s.removeLease e.leaseSlot with
            directory := (s.removeLease e.leaseSlot).directory.map fun r =>
              if r.tag = e.tag then { r with pin := .unpinned } else r
            pinOps := before ++ after } : State).postReserved .a
              (.unpinDone e.client k e.tag)).postUnreserved e.owner.link
                (.pinReleased e.owner.client e.tag k)).passAndRetire).endItem)
    ∧ (s.servingItem (.pinVoid k .failed) →
      exec .pinVoidCompletion s = .next
        (({ s with
            leases := s.leases.set e.leaseSlot (some { x with state := .pinned })
            directory := s.directory.map fun r =>
              if r.tag = e.tag then { r with pin := .pinned k } else r
            pinOps := before ++ after } : State).postReserved .a
              (.unpinFailed e.client k e.tag)).endItem)

/-! ### Host links -/

/-- R162 to R165: a request window given whole on an idle link. A frame whose CRC is good joins the FIFO, or
is an overrun when it holds 4; one whose CRC differs is a CRC error; a window of two bytes or more that is
no frame is a frame error. Each error raises its own counter, which stops at 255, and sets the error flag.
The link shifts out the status byte and then 0xFF; then the engine decides. -/
def Obligations.RequestWindowsAreJudged : Prop :=
  ∀ (s : State) (l : Link) (bytes : List Byte), s.resetLow = false →
    (s.link l).receiver = .idle → (∀ b, bytes.head? = some b → b ∉ fetchCodes) →
    let out := { s.link l with
      dout := s.statusByte l :: List.replicate (bytes.length - 1) 0xFF }
    let leaves (x : LinkState) : Prop :=
      exec (.requestFrame l (.whole bytes)) s = .next (s.setLink l x).arbitrate
    (∀ code seq client payload check, payload.length ≤ 24 →
      bytes = [code, seq, client, BitVec.ofNat 8 payload.length] ++ payload ++ wordBytes check →
      let good := check = crc ([code, seq, client, BitVec.ofNat 8 payload.length] ++ payload)
      (good → (s.link l).fifo.length < 4 →
        leaves { out with fifo := (s.link l).fifo ++ [⟨code, seq, client, payload⟩] })
      ∧ (good → 4 ≤ (s.link l).fifo.length →
        leaves { out with
          overrunCount := bump (s.link l).overrunCount
          errorFlag := true })
      ∧ (¬ good → leaves { out with
          crcCount := bump (s.link l).crcCount
          errorFlag := true }))
    ∧ (2 ≤ bytes.length →
      (∀ len, bytes[3]? = some len → len.toNat ≤ 24 → bytes.length ≠ len.toNat + 6) →
      leaves { out with
        frameCount := bump (s.link l).frameCount
        errorFlag := true })

/-- R171 with the bit order of R191: the eight indicators of the status byte; R161: a window with one
complete byte gives the host that byte and has no other effect; R172: attention is asserted exactly while
one of its three conditions holds, and never while RESET# is low (R160). R159, R160: DOUT is high-impedance
exactly while select is high or RESET# low; it drives the status byte from select's fall, 0xFF after the
first byte and in the rest of a window in error, the bytes of a presentation and then 0xFF (R161, R162,
R166, R168), and some byte while select has been low since before RESET# rose. No rule states that byte:
that it is a free value is the model's choice (entry 31). -/
def Obligations.StatusReadAndAttentionShowTheirConditions : Prop :=
  ∀ (s : State) (l : Link),
    ((s.statusByte l)[7] = true ↔ s.loading = false)
    ∧ ((s.statusByte l)[6] = true ↔ (s.link l).responses ≠ [])
    ∧ ((s.statusByte l)[5] = true ↔ (s.noticeQueue l).stored ≠ [])
    ∧ ((s.statusByte l)[4] = true ↔ (s.link l).errorFlag = true)
    ∧ ((s.statusByte l)[3] = true ↔ (s.link l).overrunCount ≠ 0)
    ∧ ((s.statusByte l)[2] = true ↔ s.tokens.state ≠ .ready)
    ∧ ((s.statusByte l)[1] = true ↔ s.store.controller ≠ .idle)
    ∧ ((s.statusByte l)[0] = true ↔ l = .a)
    ∧ (∀ b, s.resetLow = false → (s.link l).receiver = .idle → LinkLaw s →
      exec (.statusRead l b) s
        = .next (s.setLink l { s.link l with dout := [s.statusByte l] }))
    ∧ (s.attention l = true ↔ s.resetLow = false ∧
      ((1 ≤ (s.noticeQueue l).stored.length ∧ (s.link l).settings.noticeAttention = true)
        ∨ ((s.link l).settings.responseLevel ≤ (s.link l).responses.length
          ∧ (s.link l).settings.responseAttention = true)
        ∨ ((s.link l).errorFlag = true ∧ (s.link l).settings.errorAttention = true)))
    ∧ (s.output l = .highZ ↔ s.resetLow = true ∨ (s.link l).receiver = .idle)
    ∧ (s.resetLow = false → (s.link l).receiver = .idle →
      ∃ t, exec (.requestFrame l ⟨true, [], false⟩) s = .next t
        ∧ t.output l = .drives (s.statusByte l))
    ∧ (s.resetLow = false →
      (∀ status, (s.link l).receiver = .collecting status [] → s.output l = .drives status)
      ∧ (∀ status bytes, (s.link l).receiver = .collecting status bytes → bytes ≠ [] →
        s.output l = .drives 0xFF)
      ∧ (∀ code stream shifted isHead,
        (s.link l).receiver = .presenting code stream shifted isHead →
        s.output l = .drives (match stream[shifted]? with | some b => b | none => 0xFF))
      ∧ (∀ code, (s.link l).receiver = .ignoring code → s.output l = .drives 0xFF)
      ∧ ((s.link l).receiver = .lowSinceReset → ∃ b, s.output l = .drives b))

/-- R166 to R169 on the response queue, for a window given whole: 0xA1 first removes a head that carries the
presented mark, 0xA0 removes nothing; the head is shifted out from the third byte on, with its length and
its CRC, and then filler; the mark is set when the last CRC byte is complete. -/
def Obligations.ResponseFetchesPresentTheHead : Prop :=
  ∀ (s : State) (l : Link) (discard : Bool) (more : List Byte), s.resetLow = false →
    (s.link l).receiver = .idle → ((s.link l).presented = true → (s.link l).responses ≠ []) →
    let kept :=
      if discard && (s.link l).presented then (s.link l).responses.tail
      else (s.link l).responses
    let stream := presentation (kept.head?.map Response.bytes)
    let row :=
      if discard then Instr.fetchDiscardResponse l (.whole ([0xA1, 0x5E] ++ more))
      else .fetchResponse l (.whole ([0xA0, 0x5F] ++ more))
    exec row s = .next (s.setLink l { s.link l with
      dout := [s.statusByte l, 0xFF]
        ++ (stream ++ List.replicate more.length 0xFF).take more.length
      responses := kept
      presented := decide (kept ≠ [] ∧ stream.length ≤ more.length)
        || ((s.link l).presented && !discard) }).arbitrate

/-- R137, R138, R166, R168 on the notice queue, for a window given whole: 0xA9 first removes a head that
carries the presented mark, 0xA8 removes nothing; the head is shifted out as a response is, and the mark
set when the last CRC byte is complete. -/
def Obligations.NoticeFetchesPresentTheHead : Prop :=
  ∀ (s : State) (l : Link) (discard : Bool) (more : List Byte), s.resetLow = false →
    (s.link l).receiver = .idle →
    ((s.noticeQueue l).presented = true → (s.noticeQueue l).stored ≠ []) →
    let q := s.noticeQueue l
    let kept := if discard && q.presented then q.stored.tail else q.stored
    let stream := presentation (kept.head?.map Notice.bytes)
    let row :=
      if discard then Instr.fetchDiscardNotice l (.whole ([0xA9, 0x56] ++ more))
      else .fetchNotice l (.whole ([0xA8, 0x57] ++ more))
    exec row s = .next ((s.setLink l { s.link l with
      dout := [s.statusByte l, 0xFF]
        ++ (stream ++ List.replicate more.length 0xFF).take more.length }).setNotices l
      { q with
        stored := kept
        presented := decide (kept ≠ [] ∧ stream.length ≤ more.length)
          || (q.presented && !discard) }).arbitrate

/-- R166: a fetch whose complement differs is a frame error: the counter rises, the error flag is set,
nothing is discarded or taken, and the rest of the window shifts out 0xFF. -/
def Obligations.AWrongComplementIsAFrameError : Prop :=
  ∀ (s : State) (l : Link) (second : Byte) (more : List Byte), s.resetLow = false →
    (s.link l).receiver = .idle →
    let out : State := (s.setLink l { s.link l with
      dout := s.statusByte l :: List.replicate (more.length + 1) 0xFF
      frameCount := bump (s.link l).frameCount
      errorFlag := true }).arbitrate
    (second ≠ 0x5F → exec (.fetchResponse l (.whole (0xA0 :: second :: more))) s = .next out)
    ∧ (second ≠ 0x5E →
      exec (.fetchDiscardResponse l (.whole (0xA1 :: second :: more))) s = .next out)
    ∧ (second ≠ 0x57 → exec (.fetchNotice l (.whole (0xA8 :: second :: more))) s = .next out)
    ∧ (second ≠ 0x56 →
      exec (.fetchDiscardNotice l (.whole (0xA9 :: second :: more))) s = .next out)

/-- R141: a notice presentation that completes marks the head when nothing has emptied the queue in the
meantime; after an emptying it sets no mark and its bytes come out as they were. -/
def Obligations.AnEmptyingLeavesNoMark : Prop :=
  ∀ (s : State) (l : Link) (code : Byte) (stream bytes : List Byte) (shifted : Nat) (rises : Bool),
    s.resetLow = false → (s.link l).receiver = .presenting code stream shifted true →
    shifted < stream.length → stream.length ≤ shifted + bytes.length →
    let out := (s.link l).dout
      ++ (stream.drop shifted ++ List.replicate bytes.length 0xFF).take bytes.length
    let row (c : Instr) : Prop :=
      (∃ t, exec c s = .next t ∧ (t.link l).dout = out
        ∧ t.noticeQueue l = { s.noticeQueue l with presented := true })
      ∧ (∃ t, exec c (s.emptyNotices l) = .next t ∧ (t.link l).dout = out
        ∧ t.noticeQueue l = { s.noticeQueue l with stored := [], presented := false })
    (code = 0xA8 → row (.fetchNotice l ⟨false, bytes, rises⟩))
    ∧ (code = 0xA9 → row (.fetchDiscardNotice l ⟨false, bytes, rises⟩))

/-! ### Requests: the preamble and the link's own -/

/-- R153, R155: the common preamble, for every request row and for a code that is none: NOT_READY while
loading (STATUS and LINK-CONFIG apart), then BAD_REQUEST for an unknown code or a wrong length, then
NOT_ADMIN for an administrative request from Links B to D. A refusal changes nothing and carries no
payload. -/
def Obligations.ThePreambleRefusesInItsOrder : Prop :=
  ∀ (s : State) (l : Link) (seq : Byte) (client : Client) (p : List Byte),
    (∀ c code len admin, (c, code, len, admin) ∈ requestRows → s.serving l code seq client p →
      let early := s.loading = true ∧ code ≠ 0x31 ∧ code ≠ 0x32
      (early → exec c s = .next (s.replies l code seq .notReady .empty))
      ∧ (¬ early → p.length ≠ len → exec c s = .next (s.replies l code seq .badRequest .empty))
      ∧ (¬ early → p.length = len → admin = true → l ≠ .a →
        exec c s = .next (s.replies l code seq .notAdmin .empty)))
    ∧ (∀ code, (∀ row ∈ requestRows, row.2.1 ≠ code) → s.serving l code seq client p →
      exec .unknownRequest s = .next
        (s.replies l code seq (if s.loading then .notReady else .badRequest) .empty))

/-- R174: STATUS reports the state as it stands, the store's figures being 0 while the controller is
LOADING, and with option 1 then clears the link's three counters, its error flag and its lost counter; an
option above 1 is refused BAD_PARAM. R173: LINK-CONFIG sets the requesting link's four settings and answers
them; an enable above 1 or a level of 0 or above 8 is refused BAD_PARAM. Both are served while loading
too. -/
def Obligations.LinkConfigAndStatusServeTheirLink : Prop :=
  ∀ (s : State) (l : Link) (seq : Byte) (client : Client),
    (∀ n r e level, 1 ≤ level → level ≤ 8 →
      s.serving l 0x31 seq client
        ([boolByte n, boolByte r] ++ natByte level ++ [boolByte e]) →
      exec .linkConfig s = .next
        ((s.setLink l { s.link l with settings := ⟨n, r, level, e⟩ }).replies l 0x31 seq .done
          (.settings ⟨n, r, level, e⟩)))
    ∧ (∀ n r level e : Byte, s.serving l 0x31 seq client [n, r, level, e] →
      1 < n.toNat ∨ 1 < r.toNat ∨ 1 < e.toNat ∨ level.toNat = 0 ∨ 8 < level.toNat →
      exec .linkConfig s = .next (s.replies l 0x31 seq .badParam .empty))
    ∧ ∀ option : Byte, s.serving l 0x32 seq client [option] →
    let x := s.link l
    let q := s.noticeQueue l
    let unread : Bool := s.store.controller == .loading
    let report : StatusReport :=
      { ready := !s.loading
        errorFlag := x.errorFlag
        overrunSeen := x.overrunCount != 0
        crcCount := x.crcCount
        frameCount := x.frameCount
        overrunCount := x.overrunCount
        lost := q.lost
        responses := x.responses.length
        stored := q.stored.length
        reserved := q.reserved
        tokens := s.tokens
        controller := s.store.controller
        pendingAdvance := s.store.pendingAdvance
        remainingSteps := if unread then 0 else 65535 - s.store.begun
        blankSlots := if unread then 0
          else (List.finRange 24).countP fun k => s.store.slots[k].state == .blank }
    (option = 0 → exec .status s = .next (s.replies l 0x32 seq .done (.status report)))
    ∧ (option = 1 → exec .status s = .next
      (((s.setLink l { x with
          crcCount := 0, frameCount := 0, overrunCount := 0, errorFlag := false }).setNotices l
        { q with lost := 0 }).replies l 0x32 seq .done (.status report)))
    ∧ (1 < option.toNat → exec .status s = .next (s.replies l 0x32 seq .badParam .empty))

/-- R185: CAPS answers the fixed figures of the part with the store's two figures and the factory serial,
laid out by R189, and changes nothing. -/
def Obligations.CapsReportsThePart : Prop :=
  ∀ (s : State) (l : Link) (seq : Byte) (client : Client), s.loading = false →
    s.serving l 0x33 seq client [] →
    let remaining := 65535 - s.store.begun
    let blank := (List.finRange 24).countP fun k => s.store.slots[k].state == .blank
    exec .caps s = .next (s.replies l 0x33 seq .done (.caps remaining blank s.store.serial))
    ∧ (Payload.caps remaining blank s.store.serial).bytes
      = [1, 0, 4, 0x01, 0x00, 0x01, 0x00, 128, 24, 32, 8, 4, 4, 50, 40]
        ++ wordBytes (BitVec.ofNat 16 remaining) ++ [BitVec.ofNat 8 blank]
        ++ (List.range 12).map fun i => s.store.serial.extractLsb' (8 * (11 - i)) 8

/-! ### Requests: leases and waits -/

/-- R23: step 2 of ACQUIRE finds the parameters malformed exactly when the tag count is 0 or above 4, one of
the first tag-count entries has tag 0 or a mode other than 0 or 1, two of them have one tag, or the
duration is 0; otherwise the request is the one the payload spells (R21, R188). -/
def Obligations.AcquireParametersAreChecked : Prop :=
  (∀ p : List Byte, p.length = 17 →
    let count := (byteAt p 4).toNat
    let tag (i : Nat) : Word := wordAt p (5 + 3 * i)
    (acquireRequest? p = none ↔
      count = 0 ∨ 4 < count ∨ (∃ i < count, tag i = 0)
        ∨ (∃ i < count, ∃ j < i, tag i = tag j)
        ∨ (∃ i < count, 1 < (byteAt p (7 + 3 * i)).toNat)
        ∨ wordAt p 0 = 0))
  ∧ (∀ d lim set rest, d ≠ 0 → set ≠ [] → set.length ≤ 4 → (tagsOf set).Nodup → 0 ∉ tagsOf set →
    rest.length = 3 * (4 - set.length) →
    acquireRequest? (acquirePayload d lim set rest) = some ⟨d, lim, set⟩)

/-- R22, R24, R25, R29, R43, R44: the refusals of ACQUIRE after its preamble, in the order of its steps. Each
carries the position of the first entry that failed where its rule says so, and leaves everything as it
was; TOKEN_NOT_READY alone may make a demand. -/
def Obligations.AcquireRefusesInItsOrder : Prop :=
  ∀ (s : State) (l : Link) (seq : Byte) (client : Client) (p : List Byte) (before after : List Entry)
    (e : Entry) (d lim : Word),
    s.loading = false → s.serving l 0x10 seq client p → p.length = 17 →
    let set := before ++ e :: after
    let refuses (o : OutcomeCode) (pay : Payload) : Prop :=
      exec .acquire s = .next (s.replies l 0x10 seq o pay)
    let inForce (x : Entry) : Prop :=
      ∃ k, (s.view x.tag).pin = .pinned k ∨ (s.view x.tag).pin = .unpinning k
    let settling (x : Entry) : Prop := ∃ k, (s.view x.tag).pin = .pinning k
    let owned (x : Entry) : Prop :=
      (∃ h ∈ (s.view x.tag).holders, ∃ y, s.lease h.slot = some y ∧ y.owner = ⟨l, client⟩)
        ∨ ∃ w ∈ (s.view x.tag).queue, ∃ y, s.wait w = some y ∧ y.owner = ⟨l, client⟩
    let open' (x : Entry) : Prop :=
      (match x.mode with
        | .shared => ∀ h ∈ (s.view x.tag).holders, h.mode ≠ .exclusive
        | .exclusive => (s.view x.tag).holders = [])
      ∧ (s.view x.tag).queue = []
    let first (fails : Entry → Prop) : Prop := (∀ x ∈ before, ¬ fails x) ∧ fails e
    let none' (fails : Entry → Prop) : Prop := ∀ x ∈ set, ¬ fails x
    let position := Payload.entry (before.length + 1)
    (acquireRequest? p = none → refuses .badParam .empty)
    ∧ (acquireRequest? p = some ⟨d, lim, set⟩ →
      (s.tokens.state = .fault → refuses .tokenFault .empty)
      ∧ (s.tokens.state = .exhausted → refuses .exhausted .empty)
      ∧ (s.tokens.state ≠ .fault → s.tokens.state ≠ .exhausted →
        (first inForce → refuses .pinned position)
        ∧ (none' inForce →
          (first settling → refuses .pinPending position)
          ∧ (none' settling →
            (first owned → refuses .already position)
            ∧ (none' owned →
              (256 - s.directory.length < (set.countP fun x => (s.record? x.tag).isNone) →
                refuses .tableFull .empty)
              ∧ ((set.countP fun x => (s.record? x.tag).isNone) ≤ 256 - s.directory.length →
                (lim = 0 → first (fun x => ¬ open' x) → refuses .conflict position)
                ∧ (lim = 0 → (∀ x ∈ set, open' x) → s.freeLease? = none →
                  refuses .leaseFull .empty)
                ∧ (lim = 0 → (∀ x ∈ set, open' x) → s.freeLease? ≠ none →
                  s.tokens.state ≠ .ready →
                  exec .acquire s
                    = .next (s.demandToken.replies l 0x10 seq .tokenNotReady .empty))
                ∧ (lim ≠ 0 →
                  (∃ x ∈ set, ¬ open' x) ∨ s.freeLease? = none ∨ s.tokens.state ≠ .ready →
                  (s.freeWait? = none → refuses .waitFull .empty)
                  ∧ (s.freeWait? ≠ none →
                    32 ≤ (s.noticeQueue l).stored.length + (s.noticeQueue l).reserved →
                    refuses .noteFull .empty))))))))

/-- R26, R27, R28: with every queue of the set empty, every entry compatible, a lease slot free and the
token unit READY, the request is granted at once in the lowest free slot, with the next token; R62: the
grant that takes the last token of all is followed by the abort of every wait and the pass. -/
def Obligations.AcquireGrantsAtOnce : Prop :=
  ∀ (s : State) (l : Link) (seq : Byte) (client : Client) (d lim : Word) (set : List Entry)
    (rest : List Byte) (slot : LeaseSlot),
    s.loading = false → s.serving l 0x10 seq client (acquirePayload d lim set rest) →
    set ≠ [] → set.length ≤ 4 → rest.length = 3 * (4 - set.length) → (tagsOf set).Nodup →
    0 ∉ tagsOf set → d ≠ 0 → s.tokens.state = .ready →
    (∀ e ∈ set, (s.view e.tag).pin = .unpinned ∧ s.ownsOn ⟨l, client⟩ e.tag = false
      ∧ (s.view e.tag).queue = [] ∧ (s.view e.tag).admits e.mode = true) →
    (set.countP fun e => (s.record? e.tag).isNone) ≤ 256 - s.directory.length →
    s.lease slot = none → (∀ i < slot, s.lease i ≠ none) →
    let gen := stepGeneration s.leaseGens[slot]
    let token := Token.make s.tokens.epoch s.tokens.serial
    let granted : State := ({ s with
      leases := s.leases.set slot (some ⟨gen, ⟨l, client⟩, set, token, some d, .active⟩)
      leaseGens := s.leaseGens.set slot gen
      tokens := s.tokens.issue
      leaseClock := s.leaseClock.set slot ⟨true, d, gen, s.leaseClock[slot].mark⟩ } : State).joinHolders
        slot token set
    let answer (t : State) : Prop := exec .acquire s = .next
      (t.replies l 0x10 seq .granted (.granted ⟨slot, gen⟩ token d))
    (¬ (s.tokens.serial = 16777215 ∧ s.tokens.epoch = 65535) → answer granted)
    ∧ (s.tokens.serial = 16777215 → s.tokens.epoch = 65535 →
      answer (granted.abortWaits .exhausted).passAndRetire)

/-- R45, R46, R47: a request that may wait and is not granted at once becomes a wait in the lowest free
slot: it joins the tails of its queues and of the creation order, takes a reservation, and has its limit
counted unless it is 65535; the demand for a token is made when the unit alone holds it back; the answer
carries the wait id and the waits ahead in each queue. -/
def Obligations.AcquireQueuesAWait : Prop :=
  ∀ (s : State) (l : Link) (seq : Byte) (client : Client) (d lim : Word) (set : List Entry)
    (rest : List Byte) (w : WaitSlot),
    s.loading = false → s.serving l 0x10 seq client (acquirePayload d lim set rest) →
    set ≠ [] → set.length ≤ 4 → rest.length = 3 * (4 - set.length) → (tagsOf set).Nodup →
    0 ∉ tagsOf set → d ≠ 0 → lim ≠ 0 →
    s.tokens.state ≠ .fault → s.tokens.state ≠ .exhausted →
    (∀ e ∈ set, (s.view e.tag).pin = .unpinned ∧ s.ownsOn ⟨l, client⟩ e.tag = false) →
    (set.countP fun e => (s.record? e.tag).isNone) ≤ 256 - s.directory.length →
    let alone : Bool := set.all fun e =>
      (s.view e.tag).admits e.mode && (s.view e.tag).queue.isEmpty
    alone = false ∨ s.freeLease? = none ∨ s.tokens.state ≠ .ready →
    s.wait w = none → (∀ v < w, s.wait v ≠ none) →
    (s.noticeQueue l).stored.length + (s.noticeQueue l).reserved < 32 →
    let gen := stepGeneration s.waitGens[w]
    let queued : State := (({ s with
      waits := s.waits.set w (some ⟨gen, ⟨l, client⟩, set, d, lim⟩)
      waitGens := s.waitGens.set w gen
      creation := s.creation ++ [w]
      waitClock := if lim = 65535 then s.waitClock
        else s.waitClock.set w ⟨true, lim, gen, s.waitClock[w].mark⟩ } : State).joinQueues w set).setNotices
          l { s.noticeQueue l with reserved := (s.noticeQueue l).reserved + 1 }
    exec .acquire s = .next
      ((if alone && s.freeLease?.isSome then queued.demandToken else queued).replies l 0x10 seq
        .queued (.queued ⟨w, gen⟩ (set.map fun e => (s.view e.tag).queue.length)))

/-- R31: RENEW of one's own ACTIVE lease sets its duration, or with 0 keeps it, and reloads its countdown's
value with the duration now in force; nothing else changes. -/
def Obligations.RenewReloadsTheCountdown : Prop :=
  ∀ (s : State) (l : Link) (seq : Byte) (client : Client) (h : LeaseHandle) (t : Token)
    (d old : Word) (x : Lease),
    s.loading = false →
    s.serving l 0x11 seq client (handleBytes h ++ tokenBytes t ++ wordBytes d) →
    s.lease h.slot = some x → x.gen = h.gen → x.token = t → x.owner = ⟨l, client⟩ →
    x.state = .active → x.duration = some old →
    let now := if d = 0 then old else d
    exec .renew s = .next (({ s with
      leases := s.leases.set h.slot (some { x with duration := some now })
      leaseClock := s.leaseClock.set h.slot { s.leaseClock[h.slot] with value := now } } :
        State).replies l 0x11 seq .done (.duration now))

/-- R33: RELEASE of one's own ACTIVE lease removes it, runs the pass, retires what is left empty, and then
answers DONE. R36: DOWNGRADE of it makes its exclusive entries shared, in the lease and in place in its
tags' holder lists, runs the pass, and answers the number changed. -/
def Obligations.ReleaseRemovesAndDowngradeShares : Prop :=
  ∀ (s : State) (l : Link) (seq : Byte) (client : Client) (h : LeaseHandle) (t : Token) (x : Lease),
    s.loading = false → s.lease h.slot = some x → x.gen = h.gen → x.token = t →
    x.owner = ⟨l, client⟩ → x.state = .active →
    (s.serving l 0x12 seq client (handleBytes h ++ tokenBytes t) →
      exec .release s = .next
        ((s.removeLease h.slot).passAndRetire.replies l 0x12 seq .done .empty))
    ∧ (s.serving l 0x13 seq client (handleBytes h ++ tokenBytes t) →
      exec .downgrade s = .next (({ s with
        leases := s.leases.set h.slot
          (some { x with set := x.set.map fun e => { e with mode := .shared } })
        directory := s.directory.map fun r =>
          if r.tag ∈ tagsOf x.set then
            { r with holders := r.holders.map fun q =>
                if q.slot = h.slot then { q with mode := .shared } else q }
          else r } : State).passAndRetire.replies l 0x13 seq .done
            (.changed (x.set.countP fun e => e.mode == .exclusive))))

/-- R20: RENEW, RELEASE and DOWNGRADE are answered STALE unless the slot, the generation, the token and the
owner all match, and PINNED when they do and the lease is not ACTIVE; either refusal changes nothing. -/
def Obligations.StaleOrPinnedChangesNothing : Prop :=
  ∀ (s : State) (l : Link) (seq : Byte) (client : Client) (h : LeaseHandle) (t : Token)
    (more : List Byte) (c : Instr) (code : Byte),
    s.loading = false → s.serving l code seq client (handleBytes h ++ tokenBytes t ++ more) →
    ((c, code, more.length) = (.renew, 0x11, 2) ∨ (c, code, more.length) = (.release, 0x12, 0)
      ∨ (c, code, more.length) = (.downgrade, 0x13, 0)) →
    ((∀ x, s.lease h.slot = some x →
        x.gen ≠ h.gen ∨ x.token ≠ t ∨ x.owner ≠ ⟨l, client⟩) →
      exec c s = .next (s.replies l code seq .stale .empty))
    ∧ (∀ x, s.lease h.slot = some x → x.gen = h.gen → x.token = t → x.owner = ⟨l, client⟩ →
      x.state ≠ .active → exec c s = .next (s.replies l code seq .pinned .empty))

/-- R57: CANCEL of one's own live wait removes it, releases its reservation without a notice, runs the pass
and answers DONE; any other wait id is answered NOT_FOUND and changes nothing. -/
def Obligations.CancelRemovesOnesOwnWait : Prop :=
  ∀ (s : State) (l : Link) (seq : Byte) (client : Client), s.loading = false →
    (∀ (w : WaitSlot) (x : Wait), s.serving l 0x14 seq client (waitIdBytes ⟨w, x.gen⟩) →
      s.wait w = some x → x.owner = ⟨l, client⟩ →
      exec .cancel s = .next
        (((s.removeWait w).setNotices l { s.noticeQueue l with
          reserved := (s.noticeQueue l).reserved - 1 }).passAndRetire.replies l 0x14 seq .done .empty))
    ∧ (∀ slot gen : Byte, s.serving l 0x14 seq client [slot, gen] →
      (∀ (w : WaitSlot) (x : Wait), w.val = slot.toNat → s.wait w = some x → x.gen = gen →
        x.owner ≠ ⟨l, client⟩) →
      exec .cancel s = .next (s.replies l 0x14 seq .notFound .empty))

/-! ### Requests: readings -/

/-- R14, R15, R13 and R97: QUERY and CHECK read one record, or the empty view of a tag without one, and
change nothing; tag 0 is refused BAD_PARAM. A holder's remaining ticks are its countdown's value when it is
ACTIVE and none otherwise; a token is current while an ACTIVE holder of the tag carries it. -/
def Obligations.QueryAndCheckReadTheRecord : Prop :=
  ∀ (s : State) (l : Link) (seq : Byte) (client : Client) (tag : Tag) (token : Token),
    s.loading = false →
    let r := s.view tag
    let state : TagState :=
      match r.pin with
      | .pinning _ => .pinning
      | .pinned _ => .pinned
      | .unpinning _ => .unpinning
      | .unpinned =>
        if r.holders = [] then .free
        else if ∃ h ∈ r.holders, h.mode = .exclusive then .exclusive else .shared
    (s.serving l 0x20 seq client (wordBytes tag) →
      exec .query s = .next
        (if tag = 0 then s.replies l 0x20 seq .badParam .empty
        else s.replies l 0x20 seq .done (.query
          { found := (s.record? tag).isSome
            state := state
            holderCount := r.holders.length
            waiterCount := r.queue.length
            lastToken := r.lastToken
            holders := (r.holders.take 4).filterMap fun h => (s.lease h.slot).map fun x =>
              ⟨x.owner, h.mode,
                if x.state = .active then some s.leaseClock[h.slot].value else none⟩
            head := r.queue.head?.bind fun w => (s.wait w).map fun x =>
              ⟨x.owner, modeOn x.set tag⟩ })))
    ∧ (s.serving l 0x21 seq client (wordBytes tag ++ tokenBytes token) →
      exec .check s = .next
        (if tag = 0 then s.replies l 0x21 seq .badParam .empty
        else s.replies l 0x21 seq .done (.check
          (decide (∃ h ∈ r.holders, ∃ x, s.lease h.slot = some x ∧ x.state = .active
            ∧ x.token = token)) r.lastToken)))

/-- R38: LIST walks from the cursor's position over lease slots 0 to 255 and then wait slots 0 to 127,
answers the first 4 entries whose owner link is the requesting link and the cursor of the position after the
fourth, or 0xFFFF where the walk ended; a cursor of another kind, or of a wait slot above 127, is refused
BAD_PARAM. R39: a lease's entry is its handle, client, state, remaining ticks when ACTIVE, and first tag; a
wait's is its id, client, number of entries, remaining ticks, 65535 with no limit, and first tag. -/
def Obligations.ListWalksTheLinksEntries : Prop :=
  ∀ (s : State) (l : Link) (seq : Byte) (client : Client) (kind slot : Byte),
    s.loading = false → s.serving l 0x22 seq client [kind, slot] →
    let first (set : List Entry) : Tag := match set with | e :: _ => e.tag | [] => 0
    let lease (i : LeaseSlot) : Option ListEntry :=
      (s.lease i).bind fun x =>
        if x.owner.link = l then
          some (.lease ⟨i, x.gen⟩ x.owner.client x.state
            (if x.state = .active then some s.leaseClock[i].value else none) (first x.set))
        else none
    let wait (w : WaitSlot) : Option ListEntry :=
      (s.wait w).bind fun x =>
        if x.owner.link = l then
          some (.wait ⟨w, x.gen⟩ x.owner.client x.set.length
            (if x.limit = 65535 then 65535 else s.waitClock[w].value) (first x.set))
        else none
    let walk : List (Option ListEntry) :=
      (List.finRange 256).map lease ++ (List.finRange 128).map wait
    let start := 256 * kind.toNat + slot.toNat
    let hits := (List.range' start (384 - start)).filter fun i => (walk[i]?.join).isSome
    let next : Word :=
      match hits[3]? with
      | some i => if i + 1 = 384 then 0xFFFF else BitVec.ofNat 16 (i + 1)
      | none => 0xFFFF
    exec .list s = .next
      (if start < 384 then
        s.replies l 0x22 seq .done (.list next ((hits.take 4).filterMap fun i => walk[i]?.join))
      else s.replies l 0x22 seq .badParam .empty)

/-- R128: PIN-TABLE answers up to 6 slots from the first slot on, each with its state, the pin state of the
record that names it and its data where they are shown, and the next slot, 0xFF after slot 23; a first slot
above 23 is refused BAD_PARAM. It changes nothing. -/
def Obligations.PinTableReadsAPage : Prop :=
  ∀ (s : State) (l : Link) (seq : Byte) (client : Client) (b : Byte),
    s.loading = false → s.serving l 0x34 seq client [b] →
    let entry (k : PinSlot) : PinTableEntry :=
      ⟨k, s.store.slots[k].state,
        ((s.directory.find? fun r => r.pin.slot? == some k).map Record.pin).getD .unpinned,
        match s.store.slots[k].state with
        | .blank => none
        | .writing | .active => some s.store.slots[k].data
        | .void => if s.store.slots[k].shown then some s.store.slots[k].data else none⟩
    (∀ h : b.toNat < 24, exec .pinTable s = .next (s.replies l 0x34 seq .done
      (.pinTable ⟨b.toNat, h⟩ (if b.toNat < 18 then b + 6 else 0xFF)
        (((List.finRange 24).filter fun k => b.toNat ≤ k.val ∧ k.val < b.toNat + 6).map entry))))
    ∧ (24 ≤ b.toNat → exec .pinTable s = .next (s.replies l 0x34 seq .badParam .empty))

/-! ### Requests: pins and administration -/

/-- R117, R118: PIN is refused in the order of its checks, with nothing changed; otherwise it is ACCEPTED
into the lowest BLANK pin slot and the lowest free lease slot: a PINNING lease with token 0 and no duration,
a record that is pinning, a reservation on Link A, an entry in the list and the pin write begun. -/
def Obligations.PinIsJudgedAndAccepted : Prop :=
  ∀ (s : State) (seq : Byte) (client : Client) (tag : Tag) (link owner : Byte),
    s.loading = false → s.serving .a 0x40 seq client (wordBytes tag ++ [link, owner]) →
    let refuses (o : OutcomeCode) : Prop := exec .pin s = .next (s.replies .a 0x40 seq o .empty)
    let free : Prop := s.store.controller = .idle ∧ s.store.pendingAdvance = false
    let room : Prop := (s.noticeQueue .a).stored.length + (s.noticeQueue .a).reserved < 32
    (tag = 0 ∨ 3 < link.toNat → refuses .badParam)
    ∧ (∀ o : Link, tag ≠ 0 → link = Link.byte o →
      (s.record? tag ≠ none → refuses .notFree)
      ∧ (s.record? tag = none →
        (s.blankSlot? = none → refuses .pinsFull)
        ∧ (∀ k : PinSlot, s.store.slots[k].state = .blank →
          (∀ j < k, s.store.slots[j].state ≠ .blank) →
          (¬ free → refuses .nvBusy)
          ∧ (free → 256 ≤ s.directory.length → refuses .tableFull)
          ∧ (free → s.directory.length < 256 → s.freeLease? = none → refuses .leaseFull)
          ∧ (∀ i, s.lease i = none → (∀ j < i, s.lease j ≠ none) → free →
            s.directory.length < 256 →
            (¬ room → refuses .noteFull)
            ∧ (room →
              let gen := stepGeneration s.leaseGens[i]
              exec .pin s = .next ((({ s with
                leases := s.leases.set i
                  (some ⟨gen, ⟨o, owner⟩, [⟨tag, .exclusive⟩], 0, none, .pinning⟩)
                leaseGens := s.leaseGens.set i gen
                directory := alterRecord tag (fun r => { r with pin := .pinning k }) s.directory
                pinOps := s.pinOps ++ [⟨.write, k, tag, ⟨o, owner⟩, i, client⟩]
                store := { s.store with
                  controller := .busyPinWrite k
                  slots := s.store.slots.set k
                    ⟨.writing, ⟨tag, ⟨o, owner⟩⟩, s.store.slots[k].shown⟩ } } : State).setNotices .a
                      { s.noticeQueue .a with reserved := (s.noticeQueue .a).reserved + 1 }).replies
                        .a 0x40 seq .accepted (.pin k tag)))))))

/-- R121, R122: UNPIN is refused in the order of its checks, with nothing changed; otherwise it is ACCEPTED:
the pin's lease, which is the one holder of its record (R17), and the record become unpinning, Link A takes
a reservation, an entry joins the list and the pin void begins. -/
def Obligations.UnpinIsJudgedAndAccepted : Prop :=
  ∀ (s : State) (seq : Byte) (client : Client) (b : Byte),
    s.loading = false → s.serving .a 0x41 seq client [b] →
    let refuses (o : OutcomeCode) : Prop := exec .unpin s = .next (s.replies .a 0x41 seq o .empty)
    let free : Prop := s.store.controller = .idle ∧ s.store.pendingAdvance = false
    let room : Prop := (s.noticeQueue .a).stored.length + (s.noticeQueue .a).reserved < 32
    ((∀ k : PinSlot, k.val = b.toNat → s.store.slots[k].state = .active →
        ∀ r ∈ s.directory, r.pin ≠ .pinned k) → refuses .notFound)
    ∧ (∀ (k : PinSlot) (r : Record) (h : Holder) (x : Lease),
      k.val = b.toNat → s.store.slots[k].state = .active →
      s.directory.find? (fun q => q.pin == .pinned k) = some r → r.holders = [h] →
      s.lease h.slot = some x →
      (¬ free → refuses .nvBusy)
      ∧ (free → ¬ room → refuses .noteFull)
      ∧ (free → room → exec .unpin s = .next ((({ s with
          leases := s.leases.set h.slot (some { x with state := .unpinning })
          directory := s.directory.map fun q =>
            if q.tag = r.tag then { q with pin := .unpinning k } else q
          pinOps := s.pinOps ++ [⟨.void, k, r.tag, x.owner, h.slot, client⟩]
          store := { s.store with controller := .busyPinVoid k } } : State).setNotices .a
            { s.noticeQueue .a with reserved := (s.noticeQueue .a).reserved + 1 }).replies
              .a 0x41 seq .accepted (.pin k r.tag))))

/-- R176: REVOKE removes every ACTIVE holder of the tag whole, in ascending slot order, posting REVOKED to
each owner's link, runs the pass when it removed one, retires what is left empty, and answers the count;
tag 0 is refused BAD_PARAM. -/
def Obligations.RevokeRemovesTheActiveHolders : Prop :=
  ∀ (s : State) (seq : Byte) (client : Client) (tag : Tag),
    s.loading = false → s.serving .a 0x42 seq client (wordBytes tag) →
    let slots := (List.finRange 256).filter fun i =>
      (s.view tag).holders.any (fun h => h.slot == i)
        && (s.lease i).any fun x => x.state == .active
    let revoke (u : State) (i : LeaseSlot) : State :=
      match u.lease i with
      | some x => (u.removeLease i).postUnreserved x.owner.link
          (.revoked x.owner.client ⟨i, x.gen⟩ x.token tag)
      | none => u
    let revoked := slots.foldl revoke s
    exec .revoke s = .next
      (if tag = 0 then s.replies .a 0x42 seq .badParam .empty
      else if slots = [] then s.retire.replies .a 0x42 seq .done (.revoked 0)
      else revoked.passAndRetire.replies .a 0x42 seq .done (.revoked slots.length))

/-- R178, R179, R180: DETACH removes the ACTIVE leases and the live waits of the client or of the link, in
slot order and in creation order, and FORCE-DETACH those of the link named; a whole link's notices are
emptied, and FORCE-DETACH posts DETACHED; a pass runs when something was removed; the answer counts what was
removed. Another scope, or no link's code, is refused BAD_PARAM. -/
def Obligations.DetachesRemoveTheirOwners : Prop :=
  ∀ (s : State) (seq : Byte) (client : Client), s.loading = false →
    let leases (p : Owner → Bool) := (List.finRange 256).filter fun i =>
      (s.lease i).any fun x => x.state == .active && p x.owner
    let waits (p : Owner → Bool) := s.creation.filter fun w => (s.wait w).any fun x => p x.owner
    let removed (p : Owner → Bool) : State :=
      (waits p).foldl State.cancelWait ((leases p).foldl State.removeLease s)
    let settle (p : Owner → Bool) (u : State) : State :=
      if leases p = [] ∧ waits p = [] then u.retire else u.passAndRetire
    let counts (p : Owner → Bool) := Payload.removed (leases p).length (waits p).length
    (∀ l scope, s.serving l 0x30 seq client [scope] →
      let one : Owner → Bool := fun o => o == ⟨l, client⟩
      let all : Owner → Bool := fun o => o.link == l
      exec .detach s = .next
        (if scope = 0 then (settle one (removed one)).replies l 0x30 seq .done (counts one)
        else if scope = 1 then
          (settle all ((removed all).emptyNotices l)).replies l 0x30 seq .done (counts all)
        else s.replies l 0x30 seq .badParam .empty))
    ∧ (∀ b, s.serving .a 0x43 seq client [b] →
      (∀ l : Link, b = Link.byte l →
        let all : Owner → Bool := fun o => o.link == l
        exec .forceDetach s = .next
          ((settle all (((removed all).emptyNotices l).postUnreserved l
            (.detached client (leases all).length (waits all).length))).replies .a 0x43 seq .done
              (counts all)))
      ∧ (3 < b.toNat → exec .forceDetach s = .next (s.replies .a 0x43 seq .badParam .empty)))

/-- R182, R183: CLEAR is refused NV_BUSY while a pin operation is in flight. Otherwise every ACTIVE lease and
every live wait goes with its countdown stopped, each link's notice queue holds CLEARED alone with nothing
reserved and its lost counter kept, and everything R183 lists is as it was. Each record keeps its tag, its
last token, its pin state and the holders that no removed lease put there, and loses the waits that asked
for its tag; the records then empty, with no pin state, are gone. With the queues as Law 5 has them, every
queue is then empty. -/
def Obligations.ClearLeavesThePinsAlone : Prop :=
  ∀ (s : State) (seq : Byte) (client : Client), s.loading = false → CreationLists s →
    s.serving .a 0x45 seq client [] →
    let active (i : LeaseSlot) : Bool := (s.lease i).any fun x => x.state == .active
    (s.pinOps ≠ [] → exec .clear s = .next (s.replies .a 0x45 seq .nvBusy .empty))
    ∧ (s.pinOps = [] → ∃ u : State, exec .clear s = .next (u.replies .a 0x45 seq .done
        (.removed ((List.finRange 256).countP active) s.creation.length))
      ∧ u = { s with
          links := u.links
          notices := u.notices
          directory := u.directory
          leases := u.leases
          waits := u.waits
          creation := []
          leaseClock := u.leaseClock
          waitClock := u.waitClock }
      ∧ (∀ l, ∃ r, u.link l = { s.link l with receiver := r })
      ∧ (∀ l, u.noticeQueue l
        = ⟨[.cleared client], 0, (s.noticeQueue l).lost, false⟩)
      ∧ (∀ i : LeaseSlot,
        u.lease i = (if active i then none else s.lease i)
        ∧ u.leaseClock[i] = (if active i then
            { s.leaseClock[i] with running := false, value := 0 } else s.leaseClock[i]))
      ∧ (∀ w : WaitSlot, u.wait w = none
        ∧ u.waitClock[w] = (if (s.wait w).isSome then
            { s.waitClock[w] with running := false, value := 0 } else s.waitClock[w]))
      ∧ u.directory = (s.directory.map fun r => { r with
          holders := r.holders.filter fun h =>
            !((s.lease h.slot).any fun x => x.state == .active && (tagsOf x.set).contains r.tag)
          queue := r.queue.filter fun w =>
            !((s.wait w).any fun x => (tagsOf x.set).contains r.tag) }).filter (fun r =>
              !(r.holders.isEmpty && r.queue.isEmpty && r.pin == .unpinned))
      ∧ (QueueLaw s → ∀ r ∈ u.directory, r.queue = []))

/-! ### The shared operations -/

/-- R34, R59, R11: a lease or a wait that is removed leaves the lists of its tags, its countdown is stopped
with value 0, generation and mark kept, and its slot is free, its generation kept; a wait leaves the
creation order too. Retirement takes the empty records, and those alone; that it tests every record, not
only those the item touched, is entry 19. -/
def Obligations.RemovalFreesTheSlot : Prop :=
  ∀ (s : State),
    (∀ (i : LeaseSlot) (x : Lease), s.lease i = some x → s.removeLease i = { s with
      leases := s.leases.set i none
      leaseClock := s.leaseClock.set i { s.leaseClock[i] with running := false, value := 0 }
      directory := s.directory.map fun r =>
        if r.tag ∈ tagsOf x.set then
          { r with holders := r.holders.filter fun h => h.slot ≠ i } else r })
    ∧ (∀ (w : WaitSlot) (x : Wait), s.wait w = some x → s.removeWait w = { s with
      waits := s.waits.set w none
      waitClock := s.waitClock.set w { s.waitClock[w] with running := false, value := 0 }
      creation := s.creation.filter fun v => v ≠ w
      directory := s.directory.map fun r =>
        if r.tag ∈ tagsOf x.set then
          { r with queue := r.queue.filter fun v => v ≠ w } else r })
    ∧ (s.sorted → ∀ tag, s.retire.record? tag = (s.record? tag).filter fun r =>
      !(r.holders.isEmpty && r.queue.isEmpty && r.pin == .unpinned))

/-- R4, R5, R8, R10: a lease that is granted stands at the tail of the holders of each tag of its set, once
and with the set's mode, and its token is their last token; a wait that forms stands at the tail of the
queue of each; a tag without a record gets one, and every other tag is as it was. -/
def Obligations.JoiningReachesTheTagsOfTheSet : Prop :=
  ∀ (s : State) (set : List Entry), s.sorted → (tagsOf set).Nodup →
    (∀ (i : LeaseSlot) (token : Token),
      let t := s.joinHolders i token set
      t.sorted ∧ t = { s with directory := t.directory }
      ∧ (∀ e ∈ set, t.record? e.tag = some { s.view e.tag with
          holders := (s.view e.tag).holders ++ [⟨i, e.mode⟩], lastToken := token })
      ∧ ∀ tag, tag ∉ tagsOf set → t.record? tag = s.record? tag)
    ∧ (∀ w : WaitSlot,
      let t := s.joinQueues w set
      t.sorted ∧ t = { s with directory := t.directory }
      ∧ (∀ e ∈ set, t.record? e.tag = some { s.view e.tag with
          queue := (s.view e.tag).queue ++ [w] })
      ∧ ∀ tag, tag ∉ tagsOf set → t.record? tag = s.record? tag)

/-- R50, R51: a wait that is granted leaves its queues, the creation order and its slot, its countdown
stopped; the lease takes the free slot with the slot's stepped generation and the next token, joins the
holders of its tags and has its countdown started; GRANTED is stored in the wait's reservation. -/
def Obligations.AGrantTurnsTheWaitIntoALease : Prop :=
  ∀ (s : State) (w : WaitSlot) (x : Wait) (i : LeaseSlot), s.wait w = some x →
    let gen := stepGeneration s.leaseGens[i]
    let token := Token.make s.tokens.epoch s.tokens.serial
    let q := s.noticeQueue x.owner.link
    let u := s.removeWait w
    s.grantWait w x i = (({ u with
      leases := s.leases.set i (some ⟨gen, x.owner, x.set, token, some x.duration, .active⟩)
      leaseGens := s.leaseGens.set i gen
      tokens := s.tokens.issue
      leaseClock := s.leaseClock.set i ⟨true, x.duration, gen, s.leaseClock[i].mark⟩ } :
        State).joinHolders i token x.set).setNotices x.owner.link
      { q with
        stored := q.stored ++
          [.granted x.owner.client ⟨w, x.gen⟩ ⟨i, gen⟩ token x.duration x.set]
        reserved := q.reserved - 1 }

/-- R134: a notice of an unreserved kind joins the tail when stored and reserved together are below 32;
otherwise it is dropped and the lost counter rises by 1, unless it stands at 255. R191: every notice record
is 24 bytes. -/
def Obligations.NoticesAreStoredWhereThereIsRoom : Prop :=
  ∀ (s : State) (l : Link) (n : Notice),
    n.bytes.length = 24 ∧
    let q := s.noticeQueue l
    s.postUnreserved l n = s.setNotices l
      (if q.stored.length + q.reserved < 32 then { q with stored := q.stored ++ [n] }
      else if q.lost = 255 then q else { q with lost := q.lost + 1 })

/-- R89, R86, R105: a token is issued in READY only, the serial rising by 1, and the unit becoming UNARMED,
or EXHAUSTED in epoch 65535, after the last serial; a demand is made from UNARMED only, takes the unit to
ADVANCING, and starts the advance at once with the store IDLE, or leaves it pending behind a pin
operation. That the begun count and the step's begin mark change as the advance starts is entry 21. -/
def Obligations.TokensAreIssuedAndDemanded : Prop :=
  (∀ u : TokenUnit, u.issue =
    if u.state = .ready then
      (if u.serial.toNat < 16777215 then { u with serial := u.serial + 1 }
      else if u.epoch.toNat < 65535 then ⟨.unarmed, u.epoch, 0⟩
      else ⟨.exhausted, u.epoch, 0⟩)
    else u)
  ∧ (∀ s : State,
    (s.tokens.state ≠ .unarmed → s.demandToken = s)
    ∧ (s.tokens.state = .unarmed →
      (∀ k, s.store.controller = .busyPinWrite k ∨ s.store.controller = .busyPinVoid k →
        s.demandToken = { s with
          tokens := { s.tokens with state := .advancing }
          store := { s.store with pendingAdvance := true } })
      ∧ (s.store.controller = .idle → s.store.begun < 65535 →
        s.demandToken = { s with
          tokens := { s.tokens with state := .advancing }
          store := { s.store with
            controller := .busyAdvance (s.store.begun + 1)
            begun := s.store.begun + 1 }
          cells := { s.cells with
            epochs := putEpochMarks (s.store.begun + 1) ⟨.partly, .blank⟩ s.cells.epochs } })))

/-! ### The laws -/

/-- The state after reset meets every law below. -/
def Obligations.ResetMeetsEveryLaw : Prop :=
  LinkLaw State.reset ∧ NoticeLaw State.reset ∧ QueueLaw State.reset ∧ EndedUnitLaw State.reset
    ∧ TokenLaw State.reset ∧ ClockLaw State.reset ∧ CanonicalForms State.reset
    ∧ HolderLaw State.reset

/-- Law 2 (R148): no response queue holds more than 8 records and no FIFO more than 4 frames, a request is in
service, or its response held back (entry 5), only with a free response entry, a free engine has nothing
eligible left, and no response is longer than 40 bytes (R155). Every step keeps this, from every state that has it. -/
def Obligations.EveryStepKeepsTheLinkLaw : Prop :=
  ∀ s t : State, LinkLaw s → step s = .next t → LinkLaw t

/-- Law 3 (R130): on every link stored and reserved notices together are at most 32, and the reserved ones
number its live waits and, on Link A, the pin operations in flight. Every step keeps this, from every state
that has it. -/
def Obligations.EveryStepKeepsTheNoticeLaw : Prop :=
  ∀ s t : State, NoticeLaw s → step s = .next t → NoticeLaw t

/-- Law 5 (R48): the queue of every tag is the creation order restricted to the waits on that tag, so that any
two waits stand in one order wherever they stand together. Every step keeps this, with the order of the
directory by tag, which is the model's choice (entry 18), from every state that has it. -/
def Obligations.EveryStepKeepsTheQueueLaw : Prop :=
  ∀ s t : State, QueueLaw s → step s = .next t → QueueLaw t

/-- Law 9 (R63): while the token unit is in FAULT or EXHAUSTED, the wait table is empty. Every step keeps
this, with the course of the load it rests on, from every state that has it. -/
def Obligations.EveryStepKeepsTheEndedUnitLaw : Prop :=
  ∀ s t : State, EndedUnitLaw s → step s = .next t → EndedUnitLaw t

/-- Law 4 (R94) within a power cycle: no two ACTIVE leases carry one token, the token of each is below the
next one to be issued, and the next epoch is above the current one. Every step keeps this, with the course of
the load and of the advances it rests on, from every state that has it; and no step but a device reset
lowers the next token to be issued, or makes an ACTIVE lease whose token is new and below it, so that a token
issued later is the greater. -/
def Obligations.EveryStepKeepsTheTokenLaw : Prop :=
  ∀ s t : State, TokenLaw s → step s = .next t →
    TokenLaw t
    ∧ ((∀ tear rest, s.pending ≠ .deviceReset tear :: rest) →
      s.tokens.bound ≤ t.tokens.bound
      ∧ ∀ i x, t.lease i = some x → x.state = .active →
        (∀ j y, s.lease j = some y → y.state = .active → y.token ≠ x.token) →
        s.tokens.bound ≤ x.token.toNat)

/-- Law 4 (R94, R113) across power cycles: no command, a reset included, lowers the begun count that the
cells show, and an advance is started only at a step above it. -/
def Obligations.BegunStepsAreNeverTakenAgain : Prop :=
  ∀ (c : Instr) (s t : State), exec c s = .next t →
    s.cells.begunCount ≤ t.cells.begunCount
    ∧ (s.store.begun = s.cells.begunCount →
      ∀ n, t.store.controller = .busyAdvance n → s.store.controller ≠ .busyAdvance n →
        s.cells.begunCount < n)

/-- R74: every step keeps the clock's law, from every state that has it: a countdown has at most one item
on the list, and none is left running at 0 without its item. -/
def Obligations.EveryStepKeepsTheClockLaw : Prop :=
  ∀ s t : State, ClockLaw s → step s = .next t → ClockLaw t

/-- Law 8 (R11) and the canonical forms of the directory and the epoch cells: every step keeps them, from
every state that has them. -/
def Obligations.EveryStepKeepsTheCanonicalForms : Prop :=
  ∀ s t : State, CanonicalForms s → step s = .next t → CanonicalForms t

/-- Law 1 (R6): an exclusive holder stands alone on its tag. Every step keeps this, with the bookkeeping of
pins it rests on, from every state that has it. -/
def Obligations.EveryStepKeepsTheHolderLaw : Prop :=
  ∀ s t : State, HolderLaw s → step s = .next t → HolderLaw t

/-- R53, R54, R55, R62: the pass scans the creation order once. A wait that does not stand first on every tag
of its set, or is not compatible on one, is passed over; one that does and is ends the scan when no lease
slot is free, or, after the demand of R54, when the unit is not READY; otherwise it is granted the lowest
free slot and the scan goes on, unless the grant took the last token of all: then every wait is aborted. One
scan grants every wait that any number of scans would: with the queues as Law 5 has them, no live wait meets
the grant rule after a pass. -/
def Obligations.APassLeavesNoGrantableWait : Prop :=
  (∀ s : State, QueueLaw s → ∀ w ∈ s.promotionPass.creation, ∀ x,
    s.promotionPass.wait w = some x → s.promotionPass.grantable w x = false)
  ∧ ∀ s : State, s.promotionPass = State.scan s.creation s ∧ State.scan [] s = s
    ∧ ∀ w rest,
      (s.wait w = none → State.scan (w :: rest) s = State.scan rest s)
      ∧ ∀ x, s.wait w = some x →
        let first : Prop := ∀ e ∈ x.set, (s.view e.tag).queue.head? = some w
        let compatible : Prop := ∀ e ∈ x.set,
          match e.mode with
          | .shared => ∀ h ∈ (s.view e.tag).holders, h.mode ≠ .exclusive
          | .exclusive => (s.view e.tag).holders = []
        let last : Prop := s.tokens.serial = 16777215 ∧ s.tokens.epoch = 65535
        (¬ first ∨ ¬ compatible → State.scan (w :: rest) s = State.scan rest s)
        ∧ (first → compatible →
          ((∀ i, s.lease i ≠ none) → State.scan (w :: rest) s = s)
          ∧ ∀ i, s.lease i = none → (∀ j < i, s.lease j ≠ none) →
            (s.tokens.state ≠ .ready → State.scan (w :: rest) s = s.demandToken)
            ∧ (s.tokens.state = .ready → ¬ last →
              State.scan (w :: rest) s = State.scan rest (s.grantWait w x i))
            ∧ (s.tokens.state = .ready → last →
              State.scan (w :: rest) s = (s.grantWait w x i).abortWaits .exhausted))

/-! ### The end of a request -/

/-- R155, R170, R149: a response joins the tail of its link's queue, and with it the item ends and the engine
decides again. R155, R156: a request row makes its claims and its posts first, so that the part can be seen
with all of them made and the response not yet queued, and then queues that response. That it may pause
there, and that the same row given again goes on, is the model's choice (entry 5). -/
def Obligations.AResponseEndsItsItem : Prop :=
  ∀ (s : State),
    s.endItem = ({ s with inService := none } : State).arbitrate
    ∧ (∀ l code seq o p, s.replies l code seq o p = ({ s with
        links := s.links.set l { s.link l with
          responses := (s.link l).responses ++ [⟨code, seq, o, p⟩] }
        inService := none } : State).arbitrate)
    ∧ ∀ (row : Extent → Instr) (code : Byte), servesCode row code →
      (∀ l seq client p, s.serving l code seq client p → ∃ (u : State) (r : Response),
        r.code = code ∧ r.seq = seq
        ∧ u.inService = s.inService
        ∧ (∀ k, (u.link k).responses = (s.link k).responses ∧ (u.link k).fifo = (s.link k).fifo)
        ∧ exec (row .toItsEnd) s = .next (u.replies l r.code r.seq r.outcome r.payload)
        ∧ exec (row .toItsResponse) s = .next { u with inService := some (.answering l r) })
      ∧ (∀ l r, s.holdsBack l r → r.code = code →
        exec (row .toItsEnd) s = .next (s.replies l r.code r.seq r.outcome r.payload)
        ∧ exec (row .toItsResponse) s = .next s)
end

