-- ==== Sys2Proof/Laws/Operands.lean ====
section
/-! SUPPORT. The fields of a payload read back what was written into it (R186), and what the preamble makes
of a frame. -/

namespace Sys2Proof.Machine

/-! ### Bytes -/

@[simp] theorem wordBytes_length (w : Word) : (wordBytes w).length = 2 := rfl

@[simp] theorem handleBytes_length (h : LeaseHandle) : (handleBytes h).length = 2 := rfl

@[simp] theorem waitIdBytes_length (w : WaitId) : (waitIdBytes w).length = 2 := rfl

@[simp] theorem natByte_length (n : Nat) : (natByte n).length = 1 := rfl

@[simp] theorem bytesOf_length {w : Nat} (v : BitVec w) (n : Nat) : (bytesOf v n).length = n := by
  induction n with
  | zero => rfl
  | succ n ih => simp [bytesOf, ih]

@[simp] theorem tokenBytes_length (t : Token) : (tokenBytes t).length = 5 := bytesOf_length t 5

theorem byteAt_append_left {p q : List Byte} {i : Nat} (h : i < p.length) :
    byteAt (p ++ q) i = byteAt p i := by
  simp [byteAt, List.getD, List.getElem?_append_left h]

theorem byteAt_append_right {p q : List Byte} {i : Nat} (h : p.length ≤ i) :
    byteAt (p ++ q) i = byteAt q (i - p.length) := by
  simp [byteAt, List.getD, List.getElem?_append_right h]

@[simp] theorem byteAt_cons_zero (b : Byte) (p : List Byte) : byteAt (b :: p) 0 = b := rfl

@[simp] theorem byteAt_cons_succ (b : Byte) (p : List Byte) (i : Nat) :
    byteAt (b :: p) (i + 1) = byteAt p i := rfl

/-! ### Fields -/

/-- A two-byte field reads what was written (R186). -/
theorem wordAt_wordBytes (w : Word) (rest : List Byte) : wordAt (wordBytes w ++ rest) 0 = w := by
  simp only [wordAt, wordBytes, List.cons_append, List.nil_append, byteAt_cons_zero,
    byteAt_cons_succ]
  ext i hi
  simp only [BitVec.getElem_append, BitVec.getElem_extractLsb']
  split <;> rw [← BitVec.getLsbD_eq_getElem] <;> congr 1 <;> omega

/-- A token field reads what was written (R186). -/
theorem tokenAt_tokenBytes (t : Token) (rest : List Byte) :
    tokenAt (tokenBytes t ++ rest) 0 = t := by
  simp only [tokenAt, tokenBytes, bytesOf, List.cons_append, List.nil_append, byteAt_cons_zero,
    byteAt_cons_succ]
  ext i hi
  simp only [BitVec.getElem_append, BitVec.getElem_extractLsb']
  repeat' split
  all_goals first | (congr 1; omega) | (rw [← BitVec.getLsbD_eq_getElem]; congr 1; omega)

/-- A handle field reads what was written (R186). -/
theorem handleAt_handleBytes (h : LeaseHandle) (rest : List Byte) :
    handleAt (handleBytes h ++ rest) 0 = h := by
  obtain ⟨⟨i, hi⟩, g⟩ := h
  simp only [handleAt, handleBytes, List.cons_append, byteAt_cons_zero, byteAt_cons_succ,
    LeaseHandle.mk.injEq, Fin.mk.injEq, and_true]
  simp only [BitVec.toNat_ofNat]
  omega

/-- A wait id field reads what was written (R186). -/
theorem waitIdAt_waitIdBytes (w : WaitId) (rest : List Byte) :
    waitIdAt (waitIdBytes w ++ rest) 0 = some w := by
  obtain ⟨⟨i, hi⟩, g⟩ := w
  have h : (BitVec.ofNat 8 i).toNat = i := by simp only [BitVec.toNat_ofNat]; omega
  simp [waitIdAt, waitIdBytes, hi, Nat.mod_eq_of_lt (show i < 256 by omega)]

/-- A field behind others reads as it would at the front. -/
theorem wordAt_append_right {p q : List Byte} {i : Nat} (h : p.length ≤ i) :
    wordAt (p ++ q) i = wordAt q (i - p.length) := by
  simp only [wordAt, byteAt_append_right h, byteAt_append_right (show p.length ≤ i + 1 by omega),
    show i + 1 - p.length = i - p.length + 1 by omega]

theorem tokenAt_append_right {p q : List Byte} {i : Nat} (h : p.length ≤ i) :
    tokenAt (p ++ q) i = tokenAt q (i - p.length) := by
  simp only [tokenAt, byteAt_append_right h, byteAt_append_right (show p.length ≤ i + 1 by omega),
    byteAt_append_right (show p.length ≤ i + 2 by omega),
    byteAt_append_right (show p.length ≤ i + 3 by omega),
    byteAt_append_right (show p.length ≤ i + 4 by omega),
    show i + 1 - p.length = i - p.length + 1 by omega,
    show i + 2 - p.length = i - p.length + 2 by omega,
    show i + 3 - p.length = i - p.length + 3 by omega,
    show i + 4 - p.length = i - p.length + 4 by omega]

/-- A link code names its link (R186). -/
theorem linkAt_byte (l : Link) (rest : List Byte) : linkAt (Link.byte l :: rest) 0 = some l := by
  cases l <;> rfl

/-- A mode byte names its mode (R1). -/
theorem modeOf_byte (m : Mode) : modeOf m.byte = some m := by cases m <;> rfl

/-! ### The preamble -/

/-- A frame that is served: the part is not loading, the length is the code's, and the code is open to the
link (R153). -/
theorem State.preamble_eq_none {s : State} {l : Link} {f : Frame} (h : s.loading = false)
    (hl : payloadLength? f.code = some f.payload.length)
    (ha : adminCodes.contains f.code = true → l = .a) : s.preamble l f = none := by
  unfold State.preamble
  simp only [h, Bool.false_and, Bool.false_eq_true, if_false, hl, ne_eq, not_true_eq_false]
  by_cases c : adminCodes.contains f.code = true
  · simp [ha c]
  · rw [if_neg]
    simp only [Bool.and_eq_true, not_and]
    exact fun h => absurd h c

/-- The judgement of R20 on a payload that names an ACTIVE lease of the owner. -/
theorem State.judgeLease_ok {s : State} {o : Owner} {h : LeaseHandle} {t : Token} {x : Lease}
    {rest : List Byte} (hx : s.lease h.slot = some x) (hg : x.gen = h.gen) (ht : x.token = t)
    (ho : x.owner = o) (hs : x.state = .active) :
    s.judgeLease o (handleBytes h ++ tokenBytes t ++ rest) = .ok (h.slot, x) := by
  have h1 : handleAt (handleBytes h ++ tokenBytes t ++ rest) 0 = h := by
    rw [List.append_assoc]; exact handleAt_handleBytes h _
  have h2 : tokenAt (handleBytes h ++ tokenBytes t ++ rest) 2 = t := by
    rw [List.append_assoc, tokenAt_append_right (by simp)]
    exact tokenAt_tokenBytes t _
  unfold State.judgeLease
  simp only [h1, h2, hx, hg, ht, ho, hs, and_self, if_true]

end Sys2Proof.Machine
end

