-- ==== Sys2Proof/Laws/State.lean ====
section
/-! SUPPORT. One lemma per field for each update of the state that leaves the field as it was, and what each
accessor reads after the update of its own field: so that no proof unfolds a record update. -/

namespace Sys2Proof

/-! ### One value for each link -/

@[simp] theorem PerLink.get_set_self {α : Type} (p : PerLink α) (l : Link) (v : α) :
    (p.set l v).get l = v := by cases l <;> rfl

@[simp] theorem PerLink.get_set_ne {α : Type} (p : PerLink α) {l k : Link} (v : α) (h : k ≠ l) :
    (p.set l v).get k = p.get k := by cases l <;> cases k <;> first | rfl | exact absurd rfl h

theorem PerLink.get_set {α : Type} (p : PerLink α) (l k : Link) (v : α) :
    (p.set l v).get k = if k = l then v else p.get k := by
  cases l <;> cases k <;> rfl

@[simp] theorem PerLink.set_get_self {α : Type} (p : PerLink α) (l : Link) :
    p.set l (p.get l) = p := by cases l <;> rfl

@[simp] theorem PerLink.set_set_self {α : Type} (p : PerLink α) (l : Link) (v w : α) :
    (p.set l v).set l w = p.set l w := by cases l <;> rfl

theorem PerLink.ext_get {α : Type} {p q : PerLink α} (h : ∀ l, p.get l = q.get l) : p = q := by
  cases p; cases q
  have ha := h .a; have hb := h .b; have hc := h .c; have hd := h .d
  simp only [PerLink.get] at ha hb hc hd
  subst ha; subst hb; subst hc; subst hd; rfl

end Sys2Proof

namespace Sys2Proof.Machine

variable (s : State)

/-! ### Fields an update leaves -/

/-! `setLink` -/

@[simp] theorem State.setLink_resetLow (l : Link) (x : LinkState) : (s.setLink l x).resetLow = s.resetLow := rfl
@[simp] theorem State.setLink_notices (l : Link) (x : LinkState) : (s.setLink l x).notices = s.notices := rfl
@[simp] theorem State.setLink_loading (l : Link) (x : LinkState) : (s.setLink l x).loading = s.loading := rfl
@[simp] theorem State.setLink_arbiter (l : Link) (x : LinkState) : (s.setLink l x).arbiter = s.arbiter := rfl
@[simp] theorem State.setLink_inService (l : Link) (x : LinkState) : (s.setLink l x).inService = s.inService := rfl
@[simp] theorem State.setLink_workList (l : Link) (x : LinkState) : (s.setLink l x).workList = s.workList := rfl
@[simp] theorem State.setLink_directory (l : Link) (x : LinkState) : (s.setLink l x).directory = s.directory := rfl
@[simp] theorem State.setLink_leases (l : Link) (x : LinkState) : (s.setLink l x).leases = s.leases := rfl
@[simp] theorem State.setLink_leaseGens (l : Link) (x : LinkState) : (s.setLink l x).leaseGens = s.leaseGens := rfl
@[simp] theorem State.setLink_waits (l : Link) (x : LinkState) : (s.setLink l x).waits = s.waits := rfl
@[simp] theorem State.setLink_waitGens (l : Link) (x : LinkState) : (s.setLink l x).waitGens = s.waitGens := rfl
@[simp] theorem State.setLink_creation (l : Link) (x : LinkState) : (s.setLink l x).creation = s.creation := rfl
@[simp] theorem State.setLink_pinOps (l : Link) (x : LinkState) : (s.setLink l x).pinOps = s.pinOps := rfl
@[simp] theorem State.setLink_dividerInForce (l : Link) (x : LinkState) : (s.setLink l x).dividerInForce = s.dividerInForce := rfl
@[simp] theorem State.setLink_dividerRequested (l : Link) (x : LinkState) : (s.setLink l x).dividerRequested = s.dividerRequested := rfl
@[simp] theorem State.setLink_leaseClock (l : Link) (x : LinkState) : (s.setLink l x).leaseClock = s.leaseClock := rfl
@[simp] theorem State.setLink_waitClock (l : Link) (x : LinkState) : (s.setLink l x).waitClock = s.waitClock := rfl
@[simp] theorem State.setLink_tokens (l : Link) (x : LinkState) : (s.setLink l x).tokens = s.tokens := rfl
@[simp] theorem State.setLink_store (l : Link) (x : LinkState) : (s.setLink l x).store = s.store := rfl
@[simp] theorem State.setLink_cells (l : Link) (x : LinkState) : (s.setLink l x).cells = s.cells := rfl
@[simp] theorem State.setLink_unstated (l : Link) (x : LinkState) : (s.setLink l x).unstated = s.unstated := rfl
@[simp] theorem State.setLink_pending (l : Link) (x : LinkState) : (s.setLink l x).pending = s.pending := rfl

/-! `setNotices` -/

@[simp] theorem State.setNotices_resetLow (l : Link) (q : NoticeQueue) : (s.setNotices l q).resetLow = s.resetLow := rfl
@[simp] theorem State.setNotices_links (l : Link) (q : NoticeQueue) : (s.setNotices l q).links = s.links := rfl
@[simp] theorem State.setNotices_loading (l : Link) (q : NoticeQueue) : (s.setNotices l q).loading = s.loading := rfl
@[simp] theorem State.setNotices_arbiter (l : Link) (q : NoticeQueue) : (s.setNotices l q).arbiter = s.arbiter := rfl
@[simp] theorem State.setNotices_inService (l : Link) (q : NoticeQueue) : (s.setNotices l q).inService = s.inService := rfl
@[simp] theorem State.setNotices_workList (l : Link) (q : NoticeQueue) : (s.setNotices l q).workList = s.workList := rfl
@[simp] theorem State.setNotices_directory (l : Link) (q : NoticeQueue) : (s.setNotices l q).directory = s.directory := rfl
@[simp] theorem State.setNotices_leases (l : Link) (q : NoticeQueue) : (s.setNotices l q).leases = s.leases := rfl
@[simp] theorem State.setNotices_leaseGens (l : Link) (q : NoticeQueue) : (s.setNotices l q).leaseGens = s.leaseGens := rfl
@[simp] theorem State.setNotices_waits (l : Link) (q : NoticeQueue) : (s.setNotices l q).waits = s.waits := rfl
@[simp] theorem State.setNotices_waitGens (l : Link) (q : NoticeQueue) : (s.setNotices l q).waitGens = s.waitGens := rfl
@[simp] theorem State.setNotices_creation (l : Link) (q : NoticeQueue) : (s.setNotices l q).creation = s.creation := rfl
@[simp] theorem State.setNotices_pinOps (l : Link) (q : NoticeQueue) : (s.setNotices l q).pinOps = s.pinOps := rfl
@[simp] theorem State.setNotices_dividerInForce (l : Link) (q : NoticeQueue) : (s.setNotices l q).dividerInForce = s.dividerInForce := rfl
@[simp] theorem State.setNotices_dividerRequested (l : Link) (q : NoticeQueue) : (s.setNotices l q).dividerRequested = s.dividerRequested := rfl
@[simp] theorem State.setNotices_leaseClock (l : Link) (q : NoticeQueue) : (s.setNotices l q).leaseClock = s.leaseClock := rfl
@[simp] theorem State.setNotices_waitClock (l : Link) (q : NoticeQueue) : (s.setNotices l q).waitClock = s.waitClock := rfl
@[simp] theorem State.setNotices_tokens (l : Link) (q : NoticeQueue) : (s.setNotices l q).tokens = s.tokens := rfl
@[simp] theorem State.setNotices_store (l : Link) (q : NoticeQueue) : (s.setNotices l q).store = s.store := rfl
@[simp] theorem State.setNotices_cells (l : Link) (q : NoticeQueue) : (s.setNotices l q).cells = s.cells := rfl
@[simp] theorem State.setNotices_unstated (l : Link) (q : NoticeQueue) : (s.setNotices l q).unstated = s.unstated := rfl
@[simp] theorem State.setNotices_pending (l : Link) (q : NoticeQueue) : (s.setNotices l q).pending = s.pending := rfl

/-! `setLease` -/

@[simp] theorem State.setLease_resetLow (i : LeaseSlot) (x : Option Lease) : (s.setLease i x).resetLow = s.resetLow := rfl
@[simp] theorem State.setLease_links (i : LeaseSlot) (x : Option Lease) : (s.setLease i x).links = s.links := rfl
@[simp] theorem State.setLease_notices (i : LeaseSlot) (x : Option Lease) : (s.setLease i x).notices = s.notices := rfl
@[simp] theorem State.setLease_loading (i : LeaseSlot) (x : Option Lease) : (s.setLease i x).loading = s.loading := rfl
@[simp] theorem State.setLease_arbiter (i : LeaseSlot) (x : Option Lease) : (s.setLease i x).arbiter = s.arbiter := rfl
@[simp] theorem State.setLease_inService (i : LeaseSlot) (x : Option Lease) : (s.setLease i x).inService = s.inService := rfl
@[simp] theorem State.setLease_workList (i : LeaseSlot) (x : Option Lease) : (s.setLease i x).workList = s.workList := rfl
@[simp] theorem State.setLease_directory (i : LeaseSlot) (x : Option Lease) : (s.setLease i x).directory = s.directory := rfl
@[simp] theorem State.setLease_leaseGens (i : LeaseSlot) (x : Option Lease) : (s.setLease i x).leaseGens = s.leaseGens := rfl
@[simp] theorem State.setLease_waits (i : LeaseSlot) (x : Option Lease) : (s.setLease i x).waits = s.waits := rfl
@[simp] theorem State.setLease_waitGens (i : LeaseSlot) (x : Option Lease) : (s.setLease i x).waitGens = s.waitGens := rfl
@[simp] theorem State.setLease_creation (i : LeaseSlot) (x : Option Lease) : (s.setLease i x).creation = s.creation := rfl
@[simp] theorem State.setLease_pinOps (i : LeaseSlot) (x : Option Lease) : (s.setLease i x).pinOps = s.pinOps := rfl
@[simp] theorem State.setLease_dividerInForce (i : LeaseSlot) (x : Option Lease) : (s.setLease i x).dividerInForce = s.dividerInForce := rfl
@[simp] theorem State.setLease_dividerRequested (i : LeaseSlot) (x : Option Lease) : (s.setLease i x).dividerRequested = s.dividerRequested := rfl
@[simp] theorem State.setLease_leaseClock (i : LeaseSlot) (x : Option Lease) : (s.setLease i x).leaseClock = s.leaseClock := rfl
@[simp] theorem State.setLease_waitClock (i : LeaseSlot) (x : Option Lease) : (s.setLease i x).waitClock = s.waitClock := rfl
@[simp] theorem State.setLease_tokens (i : LeaseSlot) (x : Option Lease) : (s.setLease i x).tokens = s.tokens := rfl
@[simp] theorem State.setLease_store (i : LeaseSlot) (x : Option Lease) : (s.setLease i x).store = s.store := rfl
@[simp] theorem State.setLease_cells (i : LeaseSlot) (x : Option Lease) : (s.setLease i x).cells = s.cells := rfl
@[simp] theorem State.setLease_unstated (i : LeaseSlot) (x : Option Lease) : (s.setLease i x).unstated = s.unstated := rfl
@[simp] theorem State.setLease_pending (i : LeaseSlot) (x : Option Lease) : (s.setLease i x).pending = s.pending := rfl

/-! `setWait` -/

@[simp] theorem State.setWait_resetLow (w : WaitSlot) (x : Option Wait) : (s.setWait w x).resetLow = s.resetLow := rfl
@[simp] theorem State.setWait_links (w : WaitSlot) (x : Option Wait) : (s.setWait w x).links = s.links := rfl
@[simp] theorem State.setWait_notices (w : WaitSlot) (x : Option Wait) : (s.setWait w x).notices = s.notices := rfl
@[simp] theorem State.setWait_loading (w : WaitSlot) (x : Option Wait) : (s.setWait w x).loading = s.loading := rfl
@[simp] theorem State.setWait_arbiter (w : WaitSlot) (x : Option Wait) : (s.setWait w x).arbiter = s.arbiter := rfl
@[simp] theorem State.setWait_inService (w : WaitSlot) (x : Option Wait) : (s.setWait w x).inService = s.inService := rfl
@[simp] theorem State.setWait_workList (w : WaitSlot) (x : Option Wait) : (s.setWait w x).workList = s.workList := rfl
@[simp] theorem State.setWait_directory (w : WaitSlot) (x : Option Wait) : (s.setWait w x).directory = s.directory := rfl
@[simp] theorem State.setWait_leases (w : WaitSlot) (x : Option Wait) : (s.setWait w x).leases = s.leases := rfl
@[simp] theorem State.setWait_leaseGens (w : WaitSlot) (x : Option Wait) : (s.setWait w x).leaseGens = s.leaseGens := rfl
@[simp] theorem State.setWait_waitGens (w : WaitSlot) (x : Option Wait) : (s.setWait w x).waitGens = s.waitGens := rfl
@[simp] theorem State.setWait_creation (w : WaitSlot) (x : Option Wait) : (s.setWait w x).creation = s.creation := rfl
@[simp] theorem State.setWait_pinOps (w : WaitSlot) (x : Option Wait) : (s.setWait w x).pinOps = s.pinOps := rfl
@[simp] theorem State.setWait_dividerInForce (w : WaitSlot) (x : Option Wait) : (s.setWait w x).dividerInForce = s.dividerInForce := rfl
@[simp] theorem State.setWait_dividerRequested (w : WaitSlot) (x : Option Wait) : (s.setWait w x).dividerRequested = s.dividerRequested := rfl
@[simp] theorem State.setWait_leaseClock (w : WaitSlot) (x : Option Wait) : (s.setWait w x).leaseClock = s.leaseClock := rfl
@[simp] theorem State.setWait_waitClock (w : WaitSlot) (x : Option Wait) : (s.setWait w x).waitClock = s.waitClock := rfl
@[simp] theorem State.setWait_tokens (w : WaitSlot) (x : Option Wait) : (s.setWait w x).tokens = s.tokens := rfl
@[simp] theorem State.setWait_store (w : WaitSlot) (x : Option Wait) : (s.setWait w x).store = s.store := rfl
@[simp] theorem State.setWait_cells (w : WaitSlot) (x : Option Wait) : (s.setWait w x).cells = s.cells := rfl
@[simp] theorem State.setWait_unstated (w : WaitSlot) (x : Option Wait) : (s.setWait w x).unstated = s.unstated := rfl
@[simp] theorem State.setWait_pending (w : WaitSlot) (x : Option Wait) : (s.setWait w x).pending = s.pending := rfl

/-! `setDirectory` -/

@[simp] theorem State.setDirectory_resetLow (d : List Record) : (s.setDirectory d).resetLow = s.resetLow := rfl
@[simp] theorem State.setDirectory_links (d : List Record) : (s.setDirectory d).links = s.links := rfl
@[simp] theorem State.setDirectory_notices (d : List Record) : (s.setDirectory d).notices = s.notices := rfl
@[simp] theorem State.setDirectory_loading (d : List Record) : (s.setDirectory d).loading = s.loading := rfl
@[simp] theorem State.setDirectory_arbiter (d : List Record) : (s.setDirectory d).arbiter = s.arbiter := rfl
@[simp] theorem State.setDirectory_inService (d : List Record) : (s.setDirectory d).inService = s.inService := rfl
@[simp] theorem State.setDirectory_workList (d : List Record) : (s.setDirectory d).workList = s.workList := rfl
@[simp] theorem State.setDirectory_leases (d : List Record) : (s.setDirectory d).leases = s.leases := rfl
@[simp] theorem State.setDirectory_leaseGens (d : List Record) : (s.setDirectory d).leaseGens = s.leaseGens := rfl
@[simp] theorem State.setDirectory_waits (d : List Record) : (s.setDirectory d).waits = s.waits := rfl
@[simp] theorem State.setDirectory_waitGens (d : List Record) : (s.setDirectory d).waitGens = s.waitGens := rfl
@[simp] theorem State.setDirectory_creation (d : List Record) : (s.setDirectory d).creation = s.creation := rfl
@[simp] theorem State.setDirectory_pinOps (d : List Record) : (s.setDirectory d).pinOps = s.pinOps := rfl
@[simp] theorem State.setDirectory_dividerInForce (d : List Record) : (s.setDirectory d).dividerInForce = s.dividerInForce := rfl
@[simp] theorem State.setDirectory_dividerRequested (d : List Record) : (s.setDirectory d).dividerRequested = s.dividerRequested := rfl
@[simp] theorem State.setDirectory_leaseClock (d : List Record) : (s.setDirectory d).leaseClock = s.leaseClock := rfl
@[simp] theorem State.setDirectory_waitClock (d : List Record) : (s.setDirectory d).waitClock = s.waitClock := rfl
@[simp] theorem State.setDirectory_tokens (d : List Record) : (s.setDirectory d).tokens = s.tokens := rfl
@[simp] theorem State.setDirectory_store (d : List Record) : (s.setDirectory d).store = s.store := rfl
@[simp] theorem State.setDirectory_cells (d : List Record) : (s.setDirectory d).cells = s.cells := rfl
@[simp] theorem State.setDirectory_unstated (d : List Record) : (s.setDirectory d).unstated = s.unstated := rfl
@[simp] theorem State.setDirectory_pending (d : List Record) : (s.setDirectory d).pending = s.pending := rfl

/-! `appendItem` -/

@[simp] theorem State.appendItem_resetLow (item : WorkItem) : (s.appendItem item).resetLow = s.resetLow := rfl
@[simp] theorem State.appendItem_links (item : WorkItem) : (s.appendItem item).links = s.links := rfl
@[simp] theorem State.appendItem_notices (item : WorkItem) : (s.appendItem item).notices = s.notices := rfl
@[simp] theorem State.appendItem_loading (item : WorkItem) : (s.appendItem item).loading = s.loading := rfl
@[simp] theorem State.appendItem_arbiter (item : WorkItem) : (s.appendItem item).arbiter = s.arbiter := rfl
@[simp] theorem State.appendItem_inService (item : WorkItem) : (s.appendItem item).inService = s.inService := rfl
@[simp] theorem State.appendItem_directory (item : WorkItem) : (s.appendItem item).directory = s.directory := rfl
@[simp] theorem State.appendItem_leases (item : WorkItem) : (s.appendItem item).leases = s.leases := rfl
@[simp] theorem State.appendItem_leaseGens (item : WorkItem) : (s.appendItem item).leaseGens = s.leaseGens := rfl
@[simp] theorem State.appendItem_waits (item : WorkItem) : (s.appendItem item).waits = s.waits := rfl
@[simp] theorem State.appendItem_waitGens (item : WorkItem) : (s.appendItem item).waitGens = s.waitGens := rfl
@[simp] theorem State.appendItem_creation (item : WorkItem) : (s.appendItem item).creation = s.creation := rfl
@[simp] theorem State.appendItem_pinOps (item : WorkItem) : (s.appendItem item).pinOps = s.pinOps := rfl
@[simp] theorem State.appendItem_dividerInForce (item : WorkItem) : (s.appendItem item).dividerInForce = s.dividerInForce := rfl
@[simp] theorem State.appendItem_dividerRequested (item : WorkItem) : (s.appendItem item).dividerRequested = s.dividerRequested := rfl
@[simp] theorem State.appendItem_leaseClock (item : WorkItem) : (s.appendItem item).leaseClock = s.leaseClock := rfl
@[simp] theorem State.appendItem_waitClock (item : WorkItem) : (s.appendItem item).waitClock = s.waitClock := rfl
@[simp] theorem State.appendItem_tokens (item : WorkItem) : (s.appendItem item).tokens = s.tokens := rfl
@[simp] theorem State.appendItem_store (item : WorkItem) : (s.appendItem item).store = s.store := rfl
@[simp] theorem State.appendItem_cells (item : WorkItem) : (s.appendItem item).cells = s.cells := rfl
@[simp] theorem State.appendItem_unstated (item : WorkItem) : (s.appendItem item).unstated = s.unstated := rfl
@[simp] theorem State.appendItem_pending (item : WorkItem) : (s.appendItem item).pending = s.pending := rfl

/-! `setEpochMarks` -/

@[simp] theorem State.setEpochMarks_resetLow (n : Nat) (m : EpochMarks) : (s.setEpochMarks n m).resetLow = s.resetLow := rfl
@[simp] theorem State.setEpochMarks_links (n : Nat) (m : EpochMarks) : (s.setEpochMarks n m).links = s.links := rfl
@[simp] theorem State.setEpochMarks_notices (n : Nat) (m : EpochMarks) : (s.setEpochMarks n m).notices = s.notices := rfl
@[simp] theorem State.setEpochMarks_loading (n : Nat) (m : EpochMarks) : (s.setEpochMarks n m).loading = s.loading := rfl
@[simp] theorem State.setEpochMarks_arbiter (n : Nat) (m : EpochMarks) : (s.setEpochMarks n m).arbiter = s.arbiter := rfl
@[simp] theorem State.setEpochMarks_inService (n : Nat) (m : EpochMarks) : (s.setEpochMarks n m).inService = s.inService := rfl
@[simp] theorem State.setEpochMarks_workList (n : Nat) (m : EpochMarks) : (s.setEpochMarks n m).workList = s.workList := rfl
@[simp] theorem State.setEpochMarks_directory (n : Nat) (m : EpochMarks) : (s.setEpochMarks n m).directory = s.directory := rfl
@[simp] theorem State.setEpochMarks_leases (n : Nat) (m : EpochMarks) : (s.setEpochMarks n m).leases = s.leases := rfl
@[simp] theorem State.setEpochMarks_leaseGens (n : Nat) (m : EpochMarks) : (s.setEpochMarks n m).leaseGens = s.leaseGens := rfl
@[simp] theorem State.setEpochMarks_waits (n : Nat) (m : EpochMarks) : (s.setEpochMarks n m).waits = s.waits := rfl
@[simp] theorem State.setEpochMarks_waitGens (n : Nat) (m : EpochMarks) : (s.setEpochMarks n m).waitGens = s.waitGens := rfl
@[simp] theorem State.setEpochMarks_creation (n : Nat) (m : EpochMarks) : (s.setEpochMarks n m).creation = s.creation := rfl
@[simp] theorem State.setEpochMarks_pinOps (n : Nat) (m : EpochMarks) : (s.setEpochMarks n m).pinOps = s.pinOps := rfl
@[simp] theorem State.setEpochMarks_dividerInForce (n : Nat) (m : EpochMarks) : (s.setEpochMarks n m).dividerInForce = s.dividerInForce := rfl
@[simp] theorem State.setEpochMarks_dividerRequested (n : Nat) (m : EpochMarks) : (s.setEpochMarks n m).dividerRequested = s.dividerRequested := rfl
@[simp] theorem State.setEpochMarks_leaseClock (n : Nat) (m : EpochMarks) : (s.setEpochMarks n m).leaseClock = s.leaseClock := rfl
@[simp] theorem State.setEpochMarks_waitClock (n : Nat) (m : EpochMarks) : (s.setEpochMarks n m).waitClock = s.waitClock := rfl
@[simp] theorem State.setEpochMarks_tokens (n : Nat) (m : EpochMarks) : (s.setEpochMarks n m).tokens = s.tokens := rfl
@[simp] theorem State.setEpochMarks_store (n : Nat) (m : EpochMarks) : (s.setEpochMarks n m).store = s.store := rfl
@[simp] theorem State.setEpochMarks_unstated (n : Nat) (m : EpochMarks) : (s.setEpochMarks n m).unstated = s.unstated := rfl
@[simp] theorem State.setEpochMarks_pending (n : Nat) (m : EpochMarks) : (s.setEpochMarks n m).pending = s.pending := rfl

/-! `setPinCells` -/

@[simp] theorem State.setPinCells_resetLow (k : PinSlot) (x : PinCells) : (s.setPinCells k x).resetLow = s.resetLow := rfl
@[simp] theorem State.setPinCells_links (k : PinSlot) (x : PinCells) : (s.setPinCells k x).links = s.links := rfl
@[simp] theorem State.setPinCells_notices (k : PinSlot) (x : PinCells) : (s.setPinCells k x).notices = s.notices := rfl
@[simp] theorem State.setPinCells_loading (k : PinSlot) (x : PinCells) : (s.setPinCells k x).loading = s.loading := rfl
@[simp] theorem State.setPinCells_arbiter (k : PinSlot) (x : PinCells) : (s.setPinCells k x).arbiter = s.arbiter := rfl
@[simp] theorem State.setPinCells_inService (k : PinSlot) (x : PinCells) : (s.setPinCells k x).inService = s.inService := rfl
@[simp] theorem State.setPinCells_workList (k : PinSlot) (x : PinCells) : (s.setPinCells k x).workList = s.workList := rfl
@[simp] theorem State.setPinCells_directory (k : PinSlot) (x : PinCells) : (s.setPinCells k x).directory = s.directory := rfl
@[simp] theorem State.setPinCells_leases (k : PinSlot) (x : PinCells) : (s.setPinCells k x).leases = s.leases := rfl
@[simp] theorem State.setPinCells_leaseGens (k : PinSlot) (x : PinCells) : (s.setPinCells k x).leaseGens = s.leaseGens := rfl
@[simp] theorem State.setPinCells_waits (k : PinSlot) (x : PinCells) : (s.setPinCells k x).waits = s.waits := rfl
@[simp] theorem State.setPinCells_waitGens (k : PinSlot) (x : PinCells) : (s.setPinCells k x).waitGens = s.waitGens := rfl
@[simp] theorem State.setPinCells_creation (k : PinSlot) (x : PinCells) : (s.setPinCells k x).creation = s.creation := rfl
@[simp] theorem State.setPinCells_pinOps (k : PinSlot) (x : PinCells) : (s.setPinCells k x).pinOps = s.pinOps := rfl
@[simp] theorem State.setPinCells_dividerInForce (k : PinSlot) (x : PinCells) : (s.setPinCells k x).dividerInForce = s.dividerInForce := rfl
@[simp] theorem State.setPinCells_dividerRequested (k : PinSlot) (x : PinCells) : (s.setPinCells k x).dividerRequested = s.dividerRequested := rfl
@[simp] theorem State.setPinCells_leaseClock (k : PinSlot) (x : PinCells) : (s.setPinCells k x).leaseClock = s.leaseClock := rfl
@[simp] theorem State.setPinCells_waitClock (k : PinSlot) (x : PinCells) : (s.setPinCells k x).waitClock = s.waitClock := rfl
@[simp] theorem State.setPinCells_tokens (k : PinSlot) (x : PinCells) : (s.setPinCells k x).tokens = s.tokens := rfl
@[simp] theorem State.setPinCells_store (k : PinSlot) (x : PinCells) : (s.setPinCells k x).store = s.store := rfl
@[simp] theorem State.setPinCells_unstated (k : PinSlot) (x : PinCells) : (s.setPinCells k x).unstated = s.unstated := rfl
@[simp] theorem State.setPinCells_pending (k : PinSlot) (x : PinCells) : (s.setPinCells k x).pending = s.pending := rfl

/-! `setSlotEntry` -/

@[simp] theorem State.setSlotEntry_resetLow (k : PinSlot) (x : SlotEntry) : (s.setSlotEntry k x).resetLow = s.resetLow := rfl
@[simp] theorem State.setSlotEntry_links (k : PinSlot) (x : SlotEntry) : (s.setSlotEntry k x).links = s.links := rfl
@[simp] theorem State.setSlotEntry_notices (k : PinSlot) (x : SlotEntry) : (s.setSlotEntry k x).notices = s.notices := rfl
@[simp] theorem State.setSlotEntry_loading (k : PinSlot) (x : SlotEntry) : (s.setSlotEntry k x).loading = s.loading := rfl
@[simp] theorem State.setSlotEntry_arbiter (k : PinSlot) (x : SlotEntry) : (s.setSlotEntry k x).arbiter = s.arbiter := rfl
@[simp] theorem State.setSlotEntry_inService (k : PinSlot) (x : SlotEntry) : (s.setSlotEntry k x).inService = s.inService := rfl
@[simp] theorem State.setSlotEntry_workList (k : PinSlot) (x : SlotEntry) : (s.setSlotEntry k x).workList = s.workList := rfl
@[simp] theorem State.setSlotEntry_directory (k : PinSlot) (x : SlotEntry) : (s.setSlotEntry k x).directory = s.directory := rfl
@[simp] theorem State.setSlotEntry_leases (k : PinSlot) (x : SlotEntry) : (s.setSlotEntry k x).leases = s.leases := rfl
@[simp] theorem State.setSlotEntry_leaseGens (k : PinSlot) (x : SlotEntry) : (s.setSlotEntry k x).leaseGens = s.leaseGens := rfl
@[simp] theorem State.setSlotEntry_waits (k : PinSlot) (x : SlotEntry) : (s.setSlotEntry k x).waits = s.waits := rfl
@[simp] theorem State.setSlotEntry_waitGens (k : PinSlot) (x : SlotEntry) : (s.setSlotEntry k x).waitGens = s.waitGens := rfl
@[simp] theorem State.setSlotEntry_creation (k : PinSlot) (x : SlotEntry) : (s.setSlotEntry k x).creation = s.creation := rfl
@[simp] theorem State.setSlotEntry_pinOps (k : PinSlot) (x : SlotEntry) : (s.setSlotEntry k x).pinOps = s.pinOps := rfl
@[simp] theorem State.setSlotEntry_dividerInForce (k : PinSlot) (x : SlotEntry) : (s.setSlotEntry k x).dividerInForce = s.dividerInForce := rfl
@[simp] theorem State.setSlotEntry_dividerRequested (k : PinSlot) (x : SlotEntry) : (s.setSlotEntry k x).dividerRequested = s.dividerRequested := rfl
@[simp] theorem State.setSlotEntry_leaseClock (k : PinSlot) (x : SlotEntry) : (s.setSlotEntry k x).leaseClock = s.leaseClock := rfl
@[simp] theorem State.setSlotEntry_waitClock (k : PinSlot) (x : SlotEntry) : (s.setSlotEntry k x).waitClock = s.waitClock := rfl
@[simp] theorem State.setSlotEntry_tokens (k : PinSlot) (x : SlotEntry) : (s.setSlotEntry k x).tokens = s.tokens := rfl
@[simp] theorem State.setSlotEntry_cells (k : PinSlot) (x : SlotEntry) : (s.setSlotEntry k x).cells = s.cells := rfl
@[simp] theorem State.setSlotEntry_unstated (k : PinSlot) (x : SlotEntry) : (s.setSlotEntry k x).unstated = s.unstated := rfl
@[simp] theorem State.setSlotEntry_pending (k : PinSlot) (x : SlotEntry) : (s.setSlotEntry k x).pending = s.pending := rfl

/-! `setController` -/

@[simp] theorem State.setController_resetLow (c : Controller) : (s.setController c).resetLow = s.resetLow := rfl
@[simp] theorem State.setController_links (c : Controller) : (s.setController c).links = s.links := rfl
@[simp] theorem State.setController_notices (c : Controller) : (s.setController c).notices = s.notices := rfl
@[simp] theorem State.setController_loading (c : Controller) : (s.setController c).loading = s.loading := rfl
@[simp] theorem State.setController_arbiter (c : Controller) : (s.setController c).arbiter = s.arbiter := rfl
@[simp] theorem State.setController_inService (c : Controller) : (s.setController c).inService = s.inService := rfl
@[simp] theorem State.setController_workList (c : Controller) : (s.setController c).workList = s.workList := rfl
@[simp] theorem State.setController_directory (c : Controller) : (s.setController c).directory = s.directory := rfl
@[simp] theorem State.setController_leases (c : Controller) : (s.setController c).leases = s.leases := rfl
@[simp] theorem State.setController_leaseGens (c : Controller) : (s.setController c).leaseGens = s.leaseGens := rfl
@[simp] theorem State.setController_waits (c : Controller) : (s.setController c).waits = s.waits := rfl
@[simp] theorem State.setController_waitGens (c : Controller) : (s.setController c).waitGens = s.waitGens := rfl
@[simp] theorem State.setController_creation (c : Controller) : (s.setController c).creation = s.creation := rfl
@[simp] theorem State.setController_pinOps (c : Controller) : (s.setController c).pinOps = s.pinOps := rfl
@[simp] theorem State.setController_dividerInForce (c : Controller) : (s.setController c).dividerInForce = s.dividerInForce := rfl
@[simp] theorem State.setController_dividerRequested (c : Controller) : (s.setController c).dividerRequested = s.dividerRequested := rfl
@[simp] theorem State.setController_leaseClock (c : Controller) : (s.setController c).leaseClock = s.leaseClock := rfl
@[simp] theorem State.setController_waitClock (c : Controller) : (s.setController c).waitClock = s.waitClock := rfl
@[simp] theorem State.setController_tokens (c : Controller) : (s.setController c).tokens = s.tokens := rfl
@[simp] theorem State.setController_cells (c : Controller) : (s.setController c).cells = s.cells := rfl
@[simp] theorem State.setController_unstated (c : Controller) : (s.setController c).unstated = s.unstated := rfl
@[simp] theorem State.setController_pending (c : Controller) : (s.setController c).pending = s.pending := rfl

/-! `setPendingAdvance` -/

@[simp] theorem State.setPendingAdvance_resetLow (b : Bool) : (s.setPendingAdvance b).resetLow = s.resetLow := rfl
@[simp] theorem State.setPendingAdvance_links (b : Bool) : (s.setPendingAdvance b).links = s.links := rfl
@[simp] theorem State.setPendingAdvance_notices (b : Bool) : (s.setPendingAdvance b).notices = s.notices := rfl
@[simp] theorem State.setPendingAdvance_loading (b : Bool) : (s.setPendingAdvance b).loading = s.loading := rfl
@[simp] theorem State.setPendingAdvance_arbiter (b : Bool) : (s.setPendingAdvance b).arbiter = s.arbiter := rfl
@[simp] theorem State.setPendingAdvance_inService (b : Bool) : (s.setPendingAdvance b).inService = s.inService := rfl
@[simp] theorem State.setPendingAdvance_workList (b : Bool) : (s.setPendingAdvance b).workList = s.workList := rfl
@[simp] theorem State.setPendingAdvance_directory (b : Bool) : (s.setPendingAdvance b).directory = s.directory := rfl
@[simp] theorem State.setPendingAdvance_leases (b : Bool) : (s.setPendingAdvance b).leases = s.leases := rfl
@[simp] theorem State.setPendingAdvance_leaseGens (b : Bool) : (s.setPendingAdvance b).leaseGens = s.leaseGens := rfl
@[simp] theorem State.setPendingAdvance_waits (b : Bool) : (s.setPendingAdvance b).waits = s.waits := rfl
@[simp] theorem State.setPendingAdvance_waitGens (b : Bool) : (s.setPendingAdvance b).waitGens = s.waitGens := rfl
@[simp] theorem State.setPendingAdvance_creation (b : Bool) : (s.setPendingAdvance b).creation = s.creation := rfl
@[simp] theorem State.setPendingAdvance_pinOps (b : Bool) : (s.setPendingAdvance b).pinOps = s.pinOps := rfl
@[simp] theorem State.setPendingAdvance_dividerInForce (b : Bool) : (s.setPendingAdvance b).dividerInForce = s.dividerInForce := rfl
@[simp] theorem State.setPendingAdvance_dividerRequested (b : Bool) : (s.setPendingAdvance b).dividerRequested = s.dividerRequested := rfl
@[simp] theorem State.setPendingAdvance_leaseClock (b : Bool) : (s.setPendingAdvance b).leaseClock = s.leaseClock := rfl
@[simp] theorem State.setPendingAdvance_waitClock (b : Bool) : (s.setPendingAdvance b).waitClock = s.waitClock := rfl
@[simp] theorem State.setPendingAdvance_tokens (b : Bool) : (s.setPendingAdvance b).tokens = s.tokens := rfl
@[simp] theorem State.setPendingAdvance_cells (b : Bool) : (s.setPendingAdvance b).cells = s.cells := rfl
@[simp] theorem State.setPendingAdvance_unstated (b : Bool) : (s.setPendingAdvance b).unstated = s.unstated := rfl
@[simp] theorem State.setPendingAdvance_pending (b : Bool) : (s.setPendingAdvance b).pending = s.pending := rfl

/-! `reserve` -/

@[simp] theorem State.reserve_resetLow (l : Link) : (s.reserve l).resetLow = s.resetLow := rfl
@[simp] theorem State.reserve_links (l : Link) : (s.reserve l).links = s.links := rfl
@[simp] theorem State.reserve_loading (l : Link) : (s.reserve l).loading = s.loading := rfl
@[simp] theorem State.reserve_arbiter (l : Link) : (s.reserve l).arbiter = s.arbiter := rfl
@[simp] theorem State.reserve_inService (l : Link) : (s.reserve l).inService = s.inService := rfl
@[simp] theorem State.reserve_workList (l : Link) : (s.reserve l).workList = s.workList := rfl
@[simp] theorem State.reserve_directory (l : Link) : (s.reserve l).directory = s.directory := rfl
@[simp] theorem State.reserve_leases (l : Link) : (s.reserve l).leases = s.leases := rfl
@[simp] theorem State.reserve_leaseGens (l : Link) : (s.reserve l).leaseGens = s.leaseGens := rfl
@[simp] theorem State.reserve_waits (l : Link) : (s.reserve l).waits = s.waits := rfl
@[simp] theorem State.reserve_waitGens (l : Link) : (s.reserve l).waitGens = s.waitGens := rfl
@[simp] theorem State.reserve_creation (l : Link) : (s.reserve l).creation = s.creation := rfl
@[simp] theorem State.reserve_pinOps (l : Link) : (s.reserve l).pinOps = s.pinOps := rfl
@[simp] theorem State.reserve_dividerInForce (l : Link) : (s.reserve l).dividerInForce = s.dividerInForce := rfl
@[simp] theorem State.reserve_dividerRequested (l : Link) : (s.reserve l).dividerRequested = s.dividerRequested := rfl
@[simp] theorem State.reserve_leaseClock (l : Link) : (s.reserve l).leaseClock = s.leaseClock := rfl
@[simp] theorem State.reserve_waitClock (l : Link) : (s.reserve l).waitClock = s.waitClock := rfl
@[simp] theorem State.reserve_tokens (l : Link) : (s.reserve l).tokens = s.tokens := rfl
@[simp] theorem State.reserve_store (l : Link) : (s.reserve l).store = s.store := rfl
@[simp] theorem State.reserve_cells (l : Link) : (s.reserve l).cells = s.cells := rfl
@[simp] theorem State.reserve_unstated (l : Link) : (s.reserve l).unstated = s.unstated := rfl
@[simp] theorem State.reserve_pending (l : Link) : (s.reserve l).pending = s.pending := rfl

/-! `releaseReservation` -/

@[simp] theorem State.releaseReservation_resetLow (l : Link) : (s.releaseReservation l).resetLow = s.resetLow := rfl
@[simp] theorem State.releaseReservation_links (l : Link) : (s.releaseReservation l).links = s.links := rfl
@[simp] theorem State.releaseReservation_loading (l : Link) : (s.releaseReservation l).loading = s.loading := rfl
@[simp] theorem State.releaseReservation_arbiter (l : Link) : (s.releaseReservation l).arbiter = s.arbiter := rfl
@[simp] theorem State.releaseReservation_inService (l : Link) : (s.releaseReservation l).inService = s.inService := rfl
@[simp] theorem State.releaseReservation_workList (l : Link) : (s.releaseReservation l).workList = s.workList := rfl
@[simp] theorem State.releaseReservation_directory (l : Link) : (s.releaseReservation l).directory = s.directory := rfl
@[simp] theorem State.releaseReservation_leases (l : Link) : (s.releaseReservation l).leases = s.leases := rfl
@[simp] theorem State.releaseReservation_leaseGens (l : Link) : (s.releaseReservation l).leaseGens = s.leaseGens := rfl
@[simp] theorem State.releaseReservation_waits (l : Link) : (s.releaseReservation l).waits = s.waits := rfl
@[simp] theorem State.releaseReservation_waitGens (l : Link) : (s.releaseReservation l).waitGens = s.waitGens := rfl
@[simp] theorem State.releaseReservation_creation (l : Link) : (s.releaseReservation l).creation = s.creation := rfl
@[simp] theorem State.releaseReservation_pinOps (l : Link) : (s.releaseReservation l).pinOps = s.pinOps := rfl
@[simp] theorem State.releaseReservation_dividerInForce (l : Link) : (s.releaseReservation l).dividerInForce = s.dividerInForce := rfl
@[simp] theorem State.releaseReservation_dividerRequested (l : Link) : (s.releaseReservation l).dividerRequested = s.dividerRequested := rfl
@[simp] theorem State.releaseReservation_leaseClock (l : Link) : (s.releaseReservation l).leaseClock = s.leaseClock := rfl
@[simp] theorem State.releaseReservation_waitClock (l : Link) : (s.releaseReservation l).waitClock = s.waitClock := rfl
@[simp] theorem State.releaseReservation_tokens (l : Link) : (s.releaseReservation l).tokens = s.tokens := rfl
@[simp] theorem State.releaseReservation_store (l : Link) : (s.releaseReservation l).store = s.store := rfl
@[simp] theorem State.releaseReservation_cells (l : Link) : (s.releaseReservation l).cells = s.cells := rfl
@[simp] theorem State.releaseReservation_unstated (l : Link) : (s.releaseReservation l).unstated = s.unstated := rfl
@[simp] theorem State.releaseReservation_pending (l : Link) : (s.releaseReservation l).pending = s.pending := rfl

/-! `postReserved` -/

@[simp] theorem State.postReserved_resetLow (l : Link) (n : Notice) : (s.postReserved l n).resetLow = s.resetLow := rfl
@[simp] theorem State.postReserved_links (l : Link) (n : Notice) : (s.postReserved l n).links = s.links := rfl
@[simp] theorem State.postReserved_loading (l : Link) (n : Notice) : (s.postReserved l n).loading = s.loading := rfl
@[simp] theorem State.postReserved_arbiter (l : Link) (n : Notice) : (s.postReserved l n).arbiter = s.arbiter := rfl
@[simp] theorem State.postReserved_inService (l : Link) (n : Notice) : (s.postReserved l n).inService = s.inService := rfl
@[simp] theorem State.postReserved_workList (l : Link) (n : Notice) : (s.postReserved l n).workList = s.workList := rfl
@[simp] theorem State.postReserved_directory (l : Link) (n : Notice) : (s.postReserved l n).directory = s.directory := rfl
@[simp] theorem State.postReserved_leases (l : Link) (n : Notice) : (s.postReserved l n).leases = s.leases := rfl
@[simp] theorem State.postReserved_leaseGens (l : Link) (n : Notice) : (s.postReserved l n).leaseGens = s.leaseGens := rfl
@[simp] theorem State.postReserved_waits (l : Link) (n : Notice) : (s.postReserved l n).waits = s.waits := rfl
@[simp] theorem State.postReserved_waitGens (l : Link) (n : Notice) : (s.postReserved l n).waitGens = s.waitGens := rfl
@[simp] theorem State.postReserved_creation (l : Link) (n : Notice) : (s.postReserved l n).creation = s.creation := rfl
@[simp] theorem State.postReserved_pinOps (l : Link) (n : Notice) : (s.postReserved l n).pinOps = s.pinOps := rfl
@[simp] theorem State.postReserved_dividerInForce (l : Link) (n : Notice) : (s.postReserved l n).dividerInForce = s.dividerInForce := rfl
@[simp] theorem State.postReserved_dividerRequested (l : Link) (n : Notice) : (s.postReserved l n).dividerRequested = s.dividerRequested := rfl
@[simp] theorem State.postReserved_leaseClock (l : Link) (n : Notice) : (s.postReserved l n).leaseClock = s.leaseClock := rfl
@[simp] theorem State.postReserved_waitClock (l : Link) (n : Notice) : (s.postReserved l n).waitClock = s.waitClock := rfl
@[simp] theorem State.postReserved_tokens (l : Link) (n : Notice) : (s.postReserved l n).tokens = s.tokens := rfl
@[simp] theorem State.postReserved_store (l : Link) (n : Notice) : (s.postReserved l n).store = s.store := rfl
@[simp] theorem State.postReserved_cells (l : Link) (n : Notice) : (s.postReserved l n).cells = s.cells := rfl
@[simp] theorem State.postReserved_unstated (l : Link) (n : Notice) : (s.postReserved l n).unstated = s.unstated := rfl
@[simp] theorem State.postReserved_pending (l : Link) (n : Notice) : (s.postReserved l n).pending = s.pending := rfl

/-! `dropReservations` -/

@[simp] theorem State.dropReservations_resetLow (l : Link) : (s.dropReservations l).resetLow = s.resetLow := rfl
@[simp] theorem State.dropReservations_links (l : Link) : (s.dropReservations l).links = s.links := rfl
@[simp] theorem State.dropReservations_loading (l : Link) : (s.dropReservations l).loading = s.loading := rfl
@[simp] theorem State.dropReservations_arbiter (l : Link) : (s.dropReservations l).arbiter = s.arbiter := rfl
@[simp] theorem State.dropReservations_inService (l : Link) : (s.dropReservations l).inService = s.inService := rfl
@[simp] theorem State.dropReservations_workList (l : Link) : (s.dropReservations l).workList = s.workList := rfl
@[simp] theorem State.dropReservations_directory (l : Link) : (s.dropReservations l).directory = s.directory := rfl
@[simp] theorem State.dropReservations_leases (l : Link) : (s.dropReservations l).leases = s.leases := rfl
@[simp] theorem State.dropReservations_leaseGens (l : Link) : (s.dropReservations l).leaseGens = s.leaseGens := rfl
@[simp] theorem State.dropReservations_waits (l : Link) : (s.dropReservations l).waits = s.waits := rfl
@[simp] theorem State.dropReservations_waitGens (l : Link) : (s.dropReservations l).waitGens = s.waitGens := rfl
@[simp] theorem State.dropReservations_creation (l : Link) : (s.dropReservations l).creation = s.creation := rfl
@[simp] theorem State.dropReservations_pinOps (l : Link) : (s.dropReservations l).pinOps = s.pinOps := rfl
@[simp] theorem State.dropReservations_dividerInForce (l : Link) : (s.dropReservations l).dividerInForce = s.dividerInForce := rfl
@[simp] theorem State.dropReservations_dividerRequested (l : Link) : (s.dropReservations l).dividerRequested = s.dividerRequested := rfl
@[simp] theorem State.dropReservations_leaseClock (l : Link) : (s.dropReservations l).leaseClock = s.leaseClock := rfl
@[simp] theorem State.dropReservations_waitClock (l : Link) : (s.dropReservations l).waitClock = s.waitClock := rfl
@[simp] theorem State.dropReservations_tokens (l : Link) : (s.dropReservations l).tokens = s.tokens := rfl
@[simp] theorem State.dropReservations_store (l : Link) : (s.dropReservations l).store = s.store := rfl
@[simp] theorem State.dropReservations_cells (l : Link) : (s.dropReservations l).cells = s.cells := rfl
@[simp] theorem State.dropReservations_unstated (l : Link) : (s.dropReservations l).unstated = s.unstated := rfl
@[simp] theorem State.dropReservations_pending (l : Link) : (s.dropReservations l).pending = s.pending := rfl

/-! `allocateLease` -/

@[simp] theorem State.allocateLease_resetLow (i : LeaseSlot) (o : Owner) (set : List Entry) (k : Token) (d : Option Word) (x : LeaseState) : (s.allocateLease i o set k d x).resetLow = s.resetLow := rfl
@[simp] theorem State.allocateLease_links (i : LeaseSlot) (o : Owner) (set : List Entry) (k : Token) (d : Option Word) (x : LeaseState) : (s.allocateLease i o set k d x).links = s.links := rfl
@[simp] theorem State.allocateLease_notices (i : LeaseSlot) (o : Owner) (set : List Entry) (k : Token) (d : Option Word) (x : LeaseState) : (s.allocateLease i o set k d x).notices = s.notices := rfl
@[simp] theorem State.allocateLease_loading (i : LeaseSlot) (o : Owner) (set : List Entry) (k : Token) (d : Option Word) (x : LeaseState) : (s.allocateLease i o set k d x).loading = s.loading := rfl
@[simp] theorem State.allocateLease_arbiter (i : LeaseSlot) (o : Owner) (set : List Entry) (k : Token) (d : Option Word) (x : LeaseState) : (s.allocateLease i o set k d x).arbiter = s.arbiter := rfl
@[simp] theorem State.allocateLease_inService (i : LeaseSlot) (o : Owner) (set : List Entry) (k : Token) (d : Option Word) (x : LeaseState) : (s.allocateLease i o set k d x).inService = s.inService := rfl
@[simp] theorem State.allocateLease_workList (i : LeaseSlot) (o : Owner) (set : List Entry) (k : Token) (d : Option Word) (x : LeaseState) : (s.allocateLease i o set k d x).workList = s.workList := rfl
@[simp] theorem State.allocateLease_directory (i : LeaseSlot) (o : Owner) (set : List Entry) (k : Token) (d : Option Word) (x : LeaseState) : (s.allocateLease i o set k d x).directory = s.directory := rfl
@[simp] theorem State.allocateLease_waits (i : LeaseSlot) (o : Owner) (set : List Entry) (k : Token) (d : Option Word) (x : LeaseState) : (s.allocateLease i o set k d x).waits = s.waits := rfl
@[simp] theorem State.allocateLease_waitGens (i : LeaseSlot) (o : Owner) (set : List Entry) (k : Token) (d : Option Word) (x : LeaseState) : (s.allocateLease i o set k d x).waitGens = s.waitGens := rfl
@[simp] theorem State.allocateLease_creation (i : LeaseSlot) (o : Owner) (set : List Entry) (k : Token) (d : Option Word) (x : LeaseState) : (s.allocateLease i o set k d x).creation = s.creation := rfl
@[simp] theorem State.allocateLease_pinOps (i : LeaseSlot) (o : Owner) (set : List Entry) (k : Token) (d : Option Word) (x : LeaseState) : (s.allocateLease i o set k d x).pinOps = s.pinOps := rfl
@[simp] theorem State.allocateLease_dividerInForce (i : LeaseSlot) (o : Owner) (set : List Entry) (k : Token) (d : Option Word) (x : LeaseState) : (s.allocateLease i o set k d x).dividerInForce = s.dividerInForce := rfl
@[simp] theorem State.allocateLease_dividerRequested (i : LeaseSlot) (o : Owner) (set : List Entry) (k : Token) (d : Option Word) (x : LeaseState) : (s.allocateLease i o set k d x).dividerRequested = s.dividerRequested := rfl
@[simp] theorem State.allocateLease_leaseClock (i : LeaseSlot) (o : Owner) (set : List Entry) (k : Token) (d : Option Word) (x : LeaseState) : (s.allocateLease i o set k d x).leaseClock = s.leaseClock := rfl
@[simp] theorem State.allocateLease_waitClock (i : LeaseSlot) (o : Owner) (set : List Entry) (k : Token) (d : Option Word) (x : LeaseState) : (s.allocateLease i o set k d x).waitClock = s.waitClock := rfl
@[simp] theorem State.allocateLease_tokens (i : LeaseSlot) (o : Owner) (set : List Entry) (k : Token) (d : Option Word) (x : LeaseState) : (s.allocateLease i o set k d x).tokens = s.tokens := rfl
@[simp] theorem State.allocateLease_store (i : LeaseSlot) (o : Owner) (set : List Entry) (k : Token) (d : Option Word) (x : LeaseState) : (s.allocateLease i o set k d x).store = s.store := rfl
@[simp] theorem State.allocateLease_cells (i : LeaseSlot) (o : Owner) (set : List Entry) (k : Token) (d : Option Word) (x : LeaseState) : (s.allocateLease i o set k d x).cells = s.cells := rfl
@[simp] theorem State.allocateLease_unstated (i : LeaseSlot) (o : Owner) (set : List Entry) (k : Token) (d : Option Word) (x : LeaseState) : (s.allocateLease i o set k d x).unstated = s.unstated := rfl
@[simp] theorem State.allocateLease_pending (i : LeaseSlot) (o : Owner) (set : List Entry) (k : Token) (d : Option Word) (x : LeaseState) : (s.allocateLease i o set k d x).pending = s.pending := rfl

/-! `joinHolders` -/

@[simp] theorem State.joinHolders_resetLow (i : LeaseSlot) (k : Token) (set : List Entry) : (s.joinHolders i k set).resetLow = s.resetLow := rfl
@[simp] theorem State.joinHolders_links (i : LeaseSlot) (k : Token) (set : List Entry) : (s.joinHolders i k set).links = s.links := rfl
@[simp] theorem State.joinHolders_notices (i : LeaseSlot) (k : Token) (set : List Entry) : (s.joinHolders i k set).notices = s.notices := rfl
@[simp] theorem State.joinHolders_loading (i : LeaseSlot) (k : Token) (set : List Entry) : (s.joinHolders i k set).loading = s.loading := rfl
@[simp] theorem State.joinHolders_arbiter (i : LeaseSlot) (k : Token) (set : List Entry) : (s.joinHolders i k set).arbiter = s.arbiter := rfl
@[simp] theorem State.joinHolders_inService (i : LeaseSlot) (k : Token) (set : List Entry) : (s.joinHolders i k set).inService = s.inService := rfl
@[simp] theorem State.joinHolders_workList (i : LeaseSlot) (k : Token) (set : List Entry) : (s.joinHolders i k set).workList = s.workList := rfl
@[simp] theorem State.joinHolders_leases (i : LeaseSlot) (k : Token) (set : List Entry) : (s.joinHolders i k set).leases = s.leases := rfl
@[simp] theorem State.joinHolders_leaseGens (i : LeaseSlot) (k : Token) (set : List Entry) : (s.joinHolders i k set).leaseGens = s.leaseGens := rfl
@[simp] theorem State.joinHolders_waits (i : LeaseSlot) (k : Token) (set : List Entry) : (s.joinHolders i k set).waits = s.waits := rfl
@[simp] theorem State.joinHolders_waitGens (i : LeaseSlot) (k : Token) (set : List Entry) : (s.joinHolders i k set).waitGens = s.waitGens := rfl
@[simp] theorem State.joinHolders_creation (i : LeaseSlot) (k : Token) (set : List Entry) : (s.joinHolders i k set).creation = s.creation := rfl
@[simp] theorem State.joinHolders_pinOps (i : LeaseSlot) (k : Token) (set : List Entry) : (s.joinHolders i k set).pinOps = s.pinOps := rfl
@[simp] theorem State.joinHolders_dividerInForce (i : LeaseSlot) (k : Token) (set : List Entry) : (s.joinHolders i k set).dividerInForce = s.dividerInForce := rfl
@[simp] theorem State.joinHolders_dividerRequested (i : LeaseSlot) (k : Token) (set : List Entry) : (s.joinHolders i k set).dividerRequested = s.dividerRequested := rfl
@[simp] theorem State.joinHolders_leaseClock (i : LeaseSlot) (k : Token) (set : List Entry) : (s.joinHolders i k set).leaseClock = s.leaseClock := rfl
@[simp] theorem State.joinHolders_waitClock (i : LeaseSlot) (k : Token) (set : List Entry) : (s.joinHolders i k set).waitClock = s.waitClock := rfl
@[simp] theorem State.joinHolders_tokens (i : LeaseSlot) (k : Token) (set : List Entry) : (s.joinHolders i k set).tokens = s.tokens := rfl
@[simp] theorem State.joinHolders_store (i : LeaseSlot) (k : Token) (set : List Entry) : (s.joinHolders i k set).store = s.store := rfl
@[simp] theorem State.joinHolders_cells (i : LeaseSlot) (k : Token) (set : List Entry) : (s.joinHolders i k set).cells = s.cells := rfl
@[simp] theorem State.joinHolders_unstated (i : LeaseSlot) (k : Token) (set : List Entry) : (s.joinHolders i k set).unstated = s.unstated := rfl
@[simp] theorem State.joinHolders_pending (i : LeaseSlot) (k : Token) (set : List Entry) : (s.joinHolders i k set).pending = s.pending := rfl

/-! `retire` -/

@[simp] theorem State.retire_resetLow : s.retire.resetLow = s.resetLow := rfl
@[simp] theorem State.retire_links : s.retire.links = s.links := rfl
@[simp] theorem State.retire_notices : s.retire.notices = s.notices := rfl
@[simp] theorem State.retire_loading : s.retire.loading = s.loading := rfl
@[simp] theorem State.retire_arbiter : s.retire.arbiter = s.arbiter := rfl
@[simp] theorem State.retire_inService : s.retire.inService = s.inService := rfl
@[simp] theorem State.retire_workList : s.retire.workList = s.workList := rfl
@[simp] theorem State.retire_leases : s.retire.leases = s.leases := rfl
@[simp] theorem State.retire_leaseGens : s.retire.leaseGens = s.leaseGens := rfl
@[simp] theorem State.retire_waits : s.retire.waits = s.waits := rfl
@[simp] theorem State.retire_waitGens : s.retire.waitGens = s.waitGens := rfl
@[simp] theorem State.retire_creation : s.retire.creation = s.creation := rfl
@[simp] theorem State.retire_pinOps : s.retire.pinOps = s.pinOps := rfl
@[simp] theorem State.retire_dividerInForce : s.retire.dividerInForce = s.dividerInForce := rfl
@[simp] theorem State.retire_dividerRequested : s.retire.dividerRequested = s.dividerRequested := rfl
@[simp] theorem State.retire_leaseClock : s.retire.leaseClock = s.leaseClock := rfl
@[simp] theorem State.retire_waitClock : s.retire.waitClock = s.waitClock := rfl
@[simp] theorem State.retire_tokens : s.retire.tokens = s.tokens := rfl
@[simp] theorem State.retire_store : s.retire.store = s.store := rfl
@[simp] theorem State.retire_cells : s.retire.cells = s.cells := rfl
@[simp] theorem State.retire_unstated : s.retire.unstated = s.unstated := rfl
@[simp] theorem State.retire_pending : s.retire.pending = s.pending := rfl

/-! `setCountdown` -/

@[simp] theorem State.setCountdown_resetLow (n : CountdownName) (c : Countdown) : (s.setCountdown n c).resetLow = s.resetLow := by cases n <;> rfl
@[simp] theorem State.setCountdown_links (n : CountdownName) (c : Countdown) : (s.setCountdown n c).links = s.links := by cases n <;> rfl
@[simp] theorem State.setCountdown_notices (n : CountdownName) (c : Countdown) : (s.setCountdown n c).notices = s.notices := by cases n <;> rfl
@[simp] theorem State.setCountdown_loading (n : CountdownName) (c : Countdown) : (s.setCountdown n c).loading = s.loading := by cases n <;> rfl
@[simp] theorem State.setCountdown_arbiter (n : CountdownName) (c : Countdown) : (s.setCountdown n c).arbiter = s.arbiter := by cases n <;> rfl
@[simp] theorem State.setCountdown_inService (n : CountdownName) (c : Countdown) : (s.setCountdown n c).inService = s.inService := by cases n <;> rfl
@[simp] theorem State.setCountdown_workList (n : CountdownName) (c : Countdown) : (s.setCountdown n c).workList = s.workList := by cases n <;> rfl
@[simp] theorem State.setCountdown_directory (n : CountdownName) (c : Countdown) : (s.setCountdown n c).directory = s.directory := by cases n <;> rfl
@[simp] theorem State.setCountdown_leases (n : CountdownName) (c : Countdown) : (s.setCountdown n c).leases = s.leases := by cases n <;> rfl
@[simp] theorem State.setCountdown_leaseGens (n : CountdownName) (c : Countdown) : (s.setCountdown n c).leaseGens = s.leaseGens := by cases n <;> rfl
@[simp] theorem State.setCountdown_waits (n : CountdownName) (c : Countdown) : (s.setCountdown n c).waits = s.waits := by cases n <;> rfl
@[simp] theorem State.setCountdown_waitGens (n : CountdownName) (c : Countdown) : (s.setCountdown n c).waitGens = s.waitGens := by cases n <;> rfl
@[simp] theorem State.setCountdown_creation (n : CountdownName) (c : Countdown) : (s.setCountdown n c).creation = s.creation := by cases n <;> rfl
@[simp] theorem State.setCountdown_pinOps (n : CountdownName) (c : Countdown) : (s.setCountdown n c).pinOps = s.pinOps := by cases n <;> rfl
@[simp] theorem State.setCountdown_dividerInForce (n : CountdownName) (c : Countdown) : (s.setCountdown n c).dividerInForce = s.dividerInForce := by cases n <;> rfl
@[simp] theorem State.setCountdown_dividerRequested (n : CountdownName) (c : Countdown) : (s.setCountdown n c).dividerRequested = s.dividerRequested := by cases n <;> rfl
@[simp] theorem State.setCountdown_tokens (n : CountdownName) (c : Countdown) : (s.setCountdown n c).tokens = s.tokens := by cases n <;> rfl
@[simp] theorem State.setCountdown_store (n : CountdownName) (c : Countdown) : (s.setCountdown n c).store = s.store := by cases n <;> rfl
@[simp] theorem State.setCountdown_cells (n : CountdownName) (c : Countdown) : (s.setCountdown n c).cells = s.cells := by cases n <;> rfl
@[simp] theorem State.setCountdown_unstated (n : CountdownName) (c : Countdown) : (s.setCountdown n c).unstated = s.unstated := by cases n <;> rfl
@[simp] theorem State.setCountdown_pending (n : CountdownName) (c : Countdown) : (s.setCountdown n c).pending = s.pending := by cases n <;> rfl

/-! `startClaim` -/

@[simp] theorem State.startClaim_resetLow (n : CountdownName) (v : Word) (g : Generation) : (s.startClaim n v g).resetLow = s.resetLow := by cases n <;> rfl
@[simp] theorem State.startClaim_links (n : CountdownName) (v : Word) (g : Generation) : (s.startClaim n v g).links = s.links := by cases n <;> rfl
@[simp] theorem State.startClaim_notices (n : CountdownName) (v : Word) (g : Generation) : (s.startClaim n v g).notices = s.notices := by cases n <;> rfl
@[simp] theorem State.startClaim_loading (n : CountdownName) (v : Word) (g : Generation) : (s.startClaim n v g).loading = s.loading := by cases n <;> rfl
@[simp] theorem State.startClaim_arbiter (n : CountdownName) (v : Word) (g : Generation) : (s.startClaim n v g).arbiter = s.arbiter := by cases n <;> rfl
@[simp] theorem State.startClaim_inService (n : CountdownName) (v : Word) (g : Generation) : (s.startClaim n v g).inService = s.inService := by cases n <;> rfl
@[simp] theorem State.startClaim_workList (n : CountdownName) (v : Word) (g : Generation) : (s.startClaim n v g).workList = s.workList := by cases n <;> rfl
@[simp] theorem State.startClaim_directory (n : CountdownName) (v : Word) (g : Generation) : (s.startClaim n v g).directory = s.directory := by cases n <;> rfl
@[simp] theorem State.startClaim_leases (n : CountdownName) (v : Word) (g : Generation) : (s.startClaim n v g).leases = s.leases := by cases n <;> rfl
@[simp] theorem State.startClaim_leaseGens (n : CountdownName) (v : Word) (g : Generation) : (s.startClaim n v g).leaseGens = s.leaseGens := by cases n <;> rfl
@[simp] theorem State.startClaim_waits (n : CountdownName) (v : Word) (g : Generation) : (s.startClaim n v g).waits = s.waits := by cases n <;> rfl
@[simp] theorem State.startClaim_waitGens (n : CountdownName) (v : Word) (g : Generation) : (s.startClaim n v g).waitGens = s.waitGens := by cases n <;> rfl
@[simp] theorem State.startClaim_creation (n : CountdownName) (v : Word) (g : Generation) : (s.startClaim n v g).creation = s.creation := by cases n <;> rfl
@[simp] theorem State.startClaim_pinOps (n : CountdownName) (v : Word) (g : Generation) : (s.startClaim n v g).pinOps = s.pinOps := by cases n <;> rfl
@[simp] theorem State.startClaim_dividerInForce (n : CountdownName) (v : Word) (g : Generation) : (s.startClaim n v g).dividerInForce = s.dividerInForce := by cases n <;> rfl
@[simp] theorem State.startClaim_dividerRequested (n : CountdownName) (v : Word) (g : Generation) : (s.startClaim n v g).dividerRequested = s.dividerRequested := by cases n <;> rfl
@[simp] theorem State.startClaim_tokens (n : CountdownName) (v : Word) (g : Generation) : (s.startClaim n v g).tokens = s.tokens := by cases n <;> rfl
@[simp] theorem State.startClaim_store (n : CountdownName) (v : Word) (g : Generation) : (s.startClaim n v g).store = s.store := by cases n <;> rfl
@[simp] theorem State.startClaim_cells (n : CountdownName) (v : Word) (g : Generation) : (s.startClaim n v g).cells = s.cells := by cases n <;> rfl
@[simp] theorem State.startClaim_unstated (n : CountdownName) (v : Word) (g : Generation) : (s.startClaim n v g).unstated = s.unstated := by cases n <;> rfl
@[simp] theorem State.startClaim_pending (n : CountdownName) (v : Word) (g : Generation) : (s.startClaim n v g).pending = s.pending := by cases n <;> rfl

/-! `reloadClaim` -/

@[simp] theorem State.reloadClaim_resetLow (n : CountdownName) (v : Word) : (s.reloadClaim n v).resetLow = s.resetLow := by cases n <;> rfl
@[simp] theorem State.reloadClaim_links (n : CountdownName) (v : Word) : (s.reloadClaim n v).links = s.links := by cases n <;> rfl
@[simp] theorem State.reloadClaim_notices (n : CountdownName) (v : Word) : (s.reloadClaim n v).notices = s.notices := by cases n <;> rfl
@[simp] theorem State.reloadClaim_loading (n : CountdownName) (v : Word) : (s.reloadClaim n v).loading = s.loading := by cases n <;> rfl
@[simp] theorem State.reloadClaim_arbiter (n : CountdownName) (v : Word) : (s.reloadClaim n v).arbiter = s.arbiter := by cases n <;> rfl
@[simp] theorem State.reloadClaim_inService (n : CountdownName) (v : Word) : (s.reloadClaim n v).inService = s.inService := by cases n <;> rfl
@[simp] theorem State.reloadClaim_workList (n : CountdownName) (v : Word) : (s.reloadClaim n v).workList = s.workList := by cases n <;> rfl
@[simp] theorem State.reloadClaim_directory (n : CountdownName) (v : Word) : (s.reloadClaim n v).directory = s.directory := by cases n <;> rfl
@[simp] theorem State.reloadClaim_leases (n : CountdownName) (v : Word) : (s.reloadClaim n v).leases = s.leases := by cases n <;> rfl
@[simp] theorem State.reloadClaim_leaseGens (n : CountdownName) (v : Word) : (s.reloadClaim n v).leaseGens = s.leaseGens := by cases n <;> rfl
@[simp] theorem State.reloadClaim_waits (n : CountdownName) (v : Word) : (s.reloadClaim n v).waits = s.waits := by cases n <;> rfl
@[simp] theorem State.reloadClaim_waitGens (n : CountdownName) (v : Word) : (s.reloadClaim n v).waitGens = s.waitGens := by cases n <;> rfl
@[simp] theorem State.reloadClaim_creation (n : CountdownName) (v : Word) : (s.reloadClaim n v).creation = s.creation := by cases n <;> rfl
@[simp] theorem State.reloadClaim_pinOps (n : CountdownName) (v : Word) : (s.reloadClaim n v).pinOps = s.pinOps := by cases n <;> rfl
@[simp] theorem State.reloadClaim_dividerInForce (n : CountdownName) (v : Word) : (s.reloadClaim n v).dividerInForce = s.dividerInForce := by cases n <;> rfl
@[simp] theorem State.reloadClaim_dividerRequested (n : CountdownName) (v : Word) : (s.reloadClaim n v).dividerRequested = s.dividerRequested := by cases n <;> rfl
@[simp] theorem State.reloadClaim_tokens (n : CountdownName) (v : Word) : (s.reloadClaim n v).tokens = s.tokens := by cases n <;> rfl
@[simp] theorem State.reloadClaim_store (n : CountdownName) (v : Word) : (s.reloadClaim n v).store = s.store := by cases n <;> rfl
@[simp] theorem State.reloadClaim_cells (n : CountdownName) (v : Word) : (s.reloadClaim n v).cells = s.cells := by cases n <;> rfl
@[simp] theorem State.reloadClaim_unstated (n : CountdownName) (v : Word) : (s.reloadClaim n v).unstated = s.unstated := by cases n <;> rfl
@[simp] theorem State.reloadClaim_pending (n : CountdownName) (v : Word) : (s.reloadClaim n v).pending = s.pending := by cases n <;> rfl

/-! `stopClaim` -/

@[simp] theorem State.stopClaim_resetLow (n : CountdownName) : (s.stopClaim n).resetLow = s.resetLow := by cases n <;> rfl
@[simp] theorem State.stopClaim_links (n : CountdownName) : (s.stopClaim n).links = s.links := by cases n <;> rfl
@[simp] theorem State.stopClaim_notices (n : CountdownName) : (s.stopClaim n).notices = s.notices := by cases n <;> rfl
@[simp] theorem State.stopClaim_loading (n : CountdownName) : (s.stopClaim n).loading = s.loading := by cases n <;> rfl
@[simp] theorem State.stopClaim_arbiter (n : CountdownName) : (s.stopClaim n).arbiter = s.arbiter := by cases n <;> rfl
@[simp] theorem State.stopClaim_inService (n : CountdownName) : (s.stopClaim n).inService = s.inService := by cases n <;> rfl
@[simp] theorem State.stopClaim_workList (n : CountdownName) : (s.stopClaim n).workList = s.workList := by cases n <;> rfl
@[simp] theorem State.stopClaim_directory (n : CountdownName) : (s.stopClaim n).directory = s.directory := by cases n <;> rfl
@[simp] theorem State.stopClaim_leases (n : CountdownName) : (s.stopClaim n).leases = s.leases := by cases n <;> rfl
@[simp] theorem State.stopClaim_leaseGens (n : CountdownName) : (s.stopClaim n).leaseGens = s.leaseGens := by cases n <;> rfl
@[simp] theorem State.stopClaim_waits (n : CountdownName) : (s.stopClaim n).waits = s.waits := by cases n <;> rfl
@[simp] theorem State.stopClaim_waitGens (n : CountdownName) : (s.stopClaim n).waitGens = s.waitGens := by cases n <;> rfl
@[simp] theorem State.stopClaim_creation (n : CountdownName) : (s.stopClaim n).creation = s.creation := by cases n <;> rfl
@[simp] theorem State.stopClaim_pinOps (n : CountdownName) : (s.stopClaim n).pinOps = s.pinOps := by cases n <;> rfl
@[simp] theorem State.stopClaim_dividerInForce (n : CountdownName) : (s.stopClaim n).dividerInForce = s.dividerInForce := by cases n <;> rfl
@[simp] theorem State.stopClaim_dividerRequested (n : CountdownName) : (s.stopClaim n).dividerRequested = s.dividerRequested := by cases n <;> rfl
@[simp] theorem State.stopClaim_tokens (n : CountdownName) : (s.stopClaim n).tokens = s.tokens := by cases n <;> rfl
@[simp] theorem State.stopClaim_store (n : CountdownName) : (s.stopClaim n).store = s.store := by cases n <;> rfl
@[simp] theorem State.stopClaim_cells (n : CountdownName) : (s.stopClaim n).cells = s.cells := by cases n <;> rfl
@[simp] theorem State.stopClaim_unstated (n : CountdownName) : (s.stopClaim n).unstated = s.unstated := by cases n <;> rfl
@[simp] theorem State.stopClaim_pending (n : CountdownName) : (s.stopClaim n).pending = s.pending := by cases n <;> rfl

/-! `emptyNotices` -/

@[simp] theorem State.emptyNotices_resetLow (l : Link) : (s.emptyNotices l).resetLow = s.resetLow := rfl
@[simp] theorem State.emptyNotices_loading (l : Link) : (s.emptyNotices l).loading = s.loading := rfl
@[simp] theorem State.emptyNotices_arbiter (l : Link) : (s.emptyNotices l).arbiter = s.arbiter := rfl
@[simp] theorem State.emptyNotices_inService (l : Link) : (s.emptyNotices l).inService = s.inService := rfl
@[simp] theorem State.emptyNotices_workList (l : Link) : (s.emptyNotices l).workList = s.workList := rfl
@[simp] theorem State.emptyNotices_directory (l : Link) : (s.emptyNotices l).directory = s.directory := rfl
@[simp] theorem State.emptyNotices_leases (l : Link) : (s.emptyNotices l).leases = s.leases := rfl
@[simp] theorem State.emptyNotices_leaseGens (l : Link) : (s.emptyNotices l).leaseGens = s.leaseGens := rfl
@[simp] theorem State.emptyNotices_waits (l : Link) : (s.emptyNotices l).waits = s.waits := rfl
@[simp] theorem State.emptyNotices_waitGens (l : Link) : (s.emptyNotices l).waitGens = s.waitGens := rfl
@[simp] theorem State.emptyNotices_creation (l : Link) : (s.emptyNotices l).creation = s.creation := rfl
@[simp] theorem State.emptyNotices_pinOps (l : Link) : (s.emptyNotices l).pinOps = s.pinOps := rfl
@[simp] theorem State.emptyNotices_dividerInForce (l : Link) : (s.emptyNotices l).dividerInForce = s.dividerInForce := rfl
@[simp] theorem State.emptyNotices_dividerRequested (l : Link) : (s.emptyNotices l).dividerRequested = s.dividerRequested := rfl
@[simp] theorem State.emptyNotices_leaseClock (l : Link) : (s.emptyNotices l).leaseClock = s.leaseClock := rfl
@[simp] theorem State.emptyNotices_waitClock (l : Link) : (s.emptyNotices l).waitClock = s.waitClock := rfl
@[simp] theorem State.emptyNotices_tokens (l : Link) : (s.emptyNotices l).tokens = s.tokens := rfl
@[simp] theorem State.emptyNotices_store (l : Link) : (s.emptyNotices l).store = s.store := rfl
@[simp] theorem State.emptyNotices_cells (l : Link) : (s.emptyNotices l).cells = s.cells := rfl
@[simp] theorem State.emptyNotices_unstated (l : Link) : (s.emptyNotices l).unstated = s.unstated := rfl
@[simp] theorem State.emptyNotices_pending (l : Link) : (s.emptyNotices l).pending = s.pending := rfl

/-! `postUnreserved` -/

@[simp] theorem State.postUnreserved_resetLow (l : Link) (n : Notice) : (s.postUnreserved l n).resetLow = s.resetLow := by
  unfold State.postUnreserved; split <;> rfl
@[simp] theorem State.postUnreserved_links (l : Link) (n : Notice) : (s.postUnreserved l n).links = s.links := by
  unfold State.postUnreserved; split <;> rfl
@[simp] theorem State.postUnreserved_loading (l : Link) (n : Notice) : (s.postUnreserved l n).loading = s.loading := by
  unfold State.postUnreserved; split <;> rfl
@[simp] theorem State.postUnreserved_arbiter (l : Link) (n : Notice) : (s.postUnreserved l n).arbiter = s.arbiter := by
  unfold State.postUnreserved; split <;> rfl
@[simp] theorem State.postUnreserved_inService (l : Link) (n : Notice) : (s.postUnreserved l n).inService = s.inService := by
  unfold State.postUnreserved; split <;> rfl
@[simp] theorem State.postUnreserved_workList (l : Link) (n : Notice) : (s.postUnreserved l n).workList = s.workList := by
  unfold State.postUnreserved; split <;> rfl
@[simp] theorem State.postUnreserved_directory (l : Link) (n : Notice) : (s.postUnreserved l n).directory = s.directory := by
  unfold State.postUnreserved; split <;> rfl
@[simp] theorem State.postUnreserved_leases (l : Link) (n : Notice) : (s.postUnreserved l n).leases = s.leases := by
  unfold State.postUnreserved; split <;> rfl
@[simp] theorem State.postUnreserved_leaseGens (l : Link) (n : Notice) : (s.postUnreserved l n).leaseGens = s.leaseGens := by
  unfold State.postUnreserved; split <;> rfl
@[simp] theorem State.postUnreserved_waits (l : Link) (n : Notice) : (s.postUnreserved l n).waits = s.waits := by
  unfold State.postUnreserved; split <;> rfl
@[simp] theorem State.postUnreserved_waitGens (l : Link) (n : Notice) : (s.postUnreserved l n).waitGens = s.waitGens := by
  unfold State.postUnreserved; split <;> rfl
@[simp] theorem State.postUnreserved_creation (l : Link) (n : Notice) : (s.postUnreserved l n).creation = s.creation := by
  unfold State.postUnreserved; split <;> rfl
@[simp] theorem State.postUnreserved_pinOps (l : Link) (n : Notice) : (s.postUnreserved l n).pinOps = s.pinOps := by
  unfold State.postUnreserved; split <;> rfl
@[simp] theorem State.postUnreserved_dividerInForce (l : Link) (n : Notice) : (s.postUnreserved l n).dividerInForce = s.dividerInForce := by
  unfold State.postUnreserved; split <;> rfl
@[simp] theorem State.postUnreserved_dividerRequested (l : Link) (n : Notice) : (s.postUnreserved l n).dividerRequested = s.dividerRequested := by
  unfold State.postUnreserved; split <;> rfl
@[simp] theorem State.postUnreserved_leaseClock (l : Link) (n : Notice) : (s.postUnreserved l n).leaseClock = s.leaseClock := by
  unfold State.postUnreserved; split <;> rfl
@[simp] theorem State.postUnreserved_waitClock (l : Link) (n : Notice) : (s.postUnreserved l n).waitClock = s.waitClock := by
  unfold State.postUnreserved; split <;> rfl
@[simp] theorem State.postUnreserved_tokens (l : Link) (n : Notice) : (s.postUnreserved l n).tokens = s.tokens := by
  unfold State.postUnreserved; split <;> rfl
@[simp] theorem State.postUnreserved_store (l : Link) (n : Notice) : (s.postUnreserved l n).store = s.store := by
  unfold State.postUnreserved; split <;> rfl
@[simp] theorem State.postUnreserved_cells (l : Link) (n : Notice) : (s.postUnreserved l n).cells = s.cells := by
  unfold State.postUnreserved; split <;> rfl
@[simp] theorem State.postUnreserved_unstated (l : Link) (n : Notice) : (s.postUnreserved l n).unstated = s.unstated := by
  unfold State.postUnreserved; split <;> rfl
@[simp] theorem State.postUnreserved_pending (l : Link) (n : Notice) : (s.postUnreserved l n).pending = s.pending := by
  unfold State.postUnreserved; split <;> rfl

/-! ### What an accessor reads after the update of its own field -/

@[simp] theorem State.link_setLink_self (l : Link) (x : LinkState) : (s.setLink l x).link l = x :=
  PerLink.get_set_self _ _ _

theorem State.link_setLink (l k : Link) (x : LinkState) :
    (s.setLink l x).link k = if k = l then x else s.link k := PerLink.get_set _ _ _ _

@[simp] theorem State.noticeQueue_setNotices_self (l : Link) (q : NoticeQueue) :
    (s.setNotices l q).noticeQueue l = q := PerLink.get_set_self _ _ _

theorem State.noticeQueue_setNotices (l k : Link) (q : NoticeQueue) :
    (s.setNotices l q).noticeQueue k = if k = l then q else s.noticeQueue k :=
  PerLink.get_set _ _ _ _

@[simp] theorem State.setLink_link_self (l : Link) : s.setLink l (s.link l) = s := by
  simp [State.setLink, State.link]

@[simp] theorem State.setNotices_noticeQueue_self (l : Link) :
    s.setNotices l (s.noticeQueue l) = s := by
  simp [State.setNotices, State.noticeQueue]

@[simp] theorem State.setLink_setLink_self (l : Link) (x y : LinkState) :
    (s.setLink l x).setLink l y = s.setLink l y := by simp [State.setLink]

@[simp] theorem State.setNotices_setNotices_self (l : Link) (x y : NoticeQueue) :
    (s.setNotices l x).setNotices l y = s.setNotices l y := by simp [State.setNotices]

@[simp] theorem State.lease_setLease_self (i : LeaseSlot) (x : Option Lease) :
    (s.setLease i x).lease i = x := by simp [State.lease, State.setLease]

theorem State.lease_setLease (i j : LeaseSlot) (x : Option Lease) :
    (s.setLease i x).lease j = if j = i then x else s.lease j := by
  simp only [State.lease, State.setLease, Fin.getElem_fin, Vector.getElem_set, Fin.ext_iff]
  split <;> split <;> first | rfl | omega

@[simp] theorem State.wait_setWait_self (w : WaitSlot) (x : Option Wait) :
    (s.setWait w x).wait w = x := by simp [State.wait, State.setWait]

theorem State.wait_setWait (w v : WaitSlot) (x : Option Wait) :
    (s.setWait w x).wait v = if v = w then x else s.wait v := by
  simp only [State.wait, State.setWait, Fin.getElem_fin, Vector.getElem_set, Fin.ext_iff]
  split <;> split <;> first | rfl | omega

@[simp] theorem State.countdown_setCountdown_self (n : CountdownName) (c : Countdown) :
    (s.setCountdown n c).countdown n = c := by
  cases n <;> simp [State.countdown, State.setCountdown]

theorem State.countdown_setCountdown (n m : CountdownName) (c : Countdown) :
    (s.setCountdown n c).countdown m = if m = n then c else s.countdown m := by
  cases n <;> cases m <;>
    simp only [State.countdown, State.setCountdown, Fin.getElem_fin, Vector.getElem_set,
      CountdownName.lease.injEq, CountdownName.wait.injEq, Fin.ext_iff, reduceCtorEq, if_false]
  all_goals split <;> split <;> first | rfl | omega

@[simp] theorem State.setCountdown_setCountdown_self (n : CountdownName) (c d : Countdown) :
    (s.setCountdown n c).setCountdown n d = s.setCountdown n d := by
  cases n <;> simp [State.setCountdown]

end Sys2Proof.Machine
end

