-- ==== Sys2Proof/Laws/Ops.lean ====
section
/-! SUPPORT. One lemma for each shared operation, saying once what it can do, for the proofs to cite in place
of unfolding it: the directory, the epoch cells, the removals and grants, the token demand, the posts. -/

namespace Sys2Proof.Machine

/-! ### The directory -/

theorem mem_alterRecord {tag : Tag} {f : Record → Record} {d : List Record} {r : Record}
    (h : r ∈ alterRecord tag f d) :
    r = f (.fresh tag) ∨ r ∈ d ∨ ∃ q ∈ d, q.tag = tag ∧ r = f q := by
  induction d with
  | nil => simpa [alterRecord] using h
  | cons q rest ih =>
    unfold alterRecord at h
    split at h
    · rcases List.mem_cons.1 h with h | h
      · exact .inl h
      · exact .inr (.inl h)
    · split at h
      · rename_i e
        rcases List.mem_cons.1 h with h | h
        · exact .inr (.inr ⟨q, List.mem_cons_self .., e.symm, h⟩)
        · exact .inr (.inl (List.mem_cons_of_mem _ h))
      · rcases List.mem_cons.1 h with h | h
        · exact .inr (.inl (h ▸ List.mem_cons_self ..))
        · rcases ih h with h | h | ⟨p, hp, ht, e⟩
          · exact .inl h
          · exact .inr (.inl (List.mem_cons_of_mem _ h))
          · exact .inr (.inr ⟨p, List.mem_cons_of_mem _ hp, ht, e⟩)

/-- The tags after a change of one record: the old ones, with that tag among them. -/
theorem tag_mem_alterRecord {tag : Tag} {f : Record → Record} (hf : ∀ r, (f r).tag = r.tag)
    {d : List Record} {x : Tag} (h : x ∈ (alterRecord tag f d).map Record.tag) :
    x = tag ∨ x ∈ d.map Record.tag := by
  obtain ⟨r, hr, rfl⟩ := List.mem_map.1 h
  rcases mem_alterRecord hr with h | h | ⟨q, hq, ht, h⟩
  · subst h; exact .inl (hf _)
  · exact .inr (List.mem_map_of_mem h)
  · subst h; exact .inl ((hf q).trans ht)

/-- A change of one record keeps the directory's canonical form. -/
theorem alterRecord_sorted {tag : Tag} {f : Record → Record} (hf : ∀ r, (f r).tag = r.tag)
    {d : List Record} (h : (d.map Record.tag).Pairwise (· < ·)) :
    ((alterRecord tag f d).map Record.tag).Pairwise (· < ·) := by
  induction d with
  | nil => simp [alterRecord]
  | cons q rest ih =>
    have hc := List.pairwise_cons.1 (show ((q.tag :: rest.map Record.tag).Pairwise (· < ·)) from h)
    unfold alterRecord
    split
    · rename_i hlt
      refine List.pairwise_cons.2 ⟨?_, h⟩
      intro x hx
      rw [hf]
      rcases List.mem_cons.1 hx with rfl | hx
      · exact hlt
      · exact BitVec.lt_trans hlt (hc.1 x hx)
    · split
      · rename_i e
        refine List.pairwise_cons.2 ⟨?_, hc.2⟩
        intro x hx
        rw [hf]
        exact hc.1 x hx
      · rename_i hlt hne
        refine List.pairwise_cons.2 ⟨?_, ih hc.2⟩
        intro x hx
        rcases tag_mem_alterRecord hf hx with rfl | hx
        · have h1 := BitVec.not_lt.1 hlt
          have h2 : q.tag ≠ x := fun e => hne e.symm
          bv_omega
        · exact hc.1 x hx

/-- What a tag reads after a change of one record of a sorted directory. -/
theorem find_alterRecord {tag : Tag} {f : Record → Record} (hf : ∀ r, (f r).tag = r.tag)
    {d : List Record} (h : (d.map Record.tag).Pairwise (· < ·)) (x : Tag) :
    (alterRecord tag f d).find? (fun r => r.tag == x)
      = if x = tag then some (f ((d.find? fun r => r.tag == tag).getD (.fresh tag)))
        else d.find? fun r => r.tag == x := by
  induction d with
  | nil =>
    simp only [alterRecord, List.find?_cons, List.find?_nil, hf, Record.fresh, Option.getD_none]
    by_cases e : x = tag
    · subst e; simp
    · have : (tag == x) = false := by simpa using Ne.symm e
      simp [e, this]
  | cons q rest ih =>
    have hc := List.pairwise_cons.1 (show ((q.tag :: rest.map Record.tag).Pairwise (· < ·)) from h)
    have none_of {y : Tag} (hy : y < q.tag ∨ y = q.tag) :
        rest.find? (fun r => r.tag == y) = none := by
      rw [List.find?_eq_none]
      intro r hr
      have := hc.1 r.tag (List.mem_map_of_mem hr)
      rcases hy with hy | rfl
      · simp only [beq_iff_eq]
        intro e; subst e
        exact absurd (BitVec.lt_trans hy this) (BitVec.lt_irrefl _)
      · simp only [beq_iff_eq]
        intro e; rw [e] at this
        exact absurd this (BitVec.lt_irrefl _)
    unfold alterRecord
    split
    · rename_i hlt
      have hne : q.tag ≠ tag := fun e => absurd (e ▸ hlt) (BitVec.lt_irrefl _)
      have hn : (q :: rest).find? (fun r => r.tag == tag) = none := by
        rw [List.find?_cons_of_neg (by simpa using hne)]
        exact none_of (.inl hlt)
      rw [hn, List.find?_cons]
      by_cases e : x = tag
      · subst e; simp [hf, Record.fresh]
      · have : (tag == x) = false := by simpa using Ne.symm e
        simp [hf, Record.fresh, e, this]
    · split
      · rename_i e
        subst e
        by_cases e : x = q.tag
        · subst e; simp [hf]
        · rw [List.find?_cons_of_neg (by simpa [hf] using Ne.symm e), if_neg e,
            List.find?_cons_of_neg (by simpa using Ne.symm e)]
      · rename_i hlt hne
        rw [List.find?_cons, List.find?_cons, ih hc.2]
        by_cases hq : q.tag = x
        · have : x ≠ tag := fun e => hne (e.symm.trans hq.symm)
          simp [hq, this]
        · have hb : (q.tag == x) = false := by simpa using hq
          by_cases e : x = tag
          · subst e; simp [hb]
          · simp [hb, e]

/-- A change that creates no record leaves the tags. -/
theorem onTags_tags {tags : List Tag} {f : Record → Record} (hf : ∀ r, (f r).tag = r.tag)
    (d : List Record) : (onTags tags f d).map Record.tag = d.map Record.tag := by
  simp only [onTags, List.map_map]
  refine List.map_congr_left fun r _ => ?_
  simp only [Function.comp]
  split <;> simp [hf]

/-- What a tag reads after a change that creates no record. -/
theorem find_onTags {tags : List Tag} {f : Record → Record} (hf : ∀ r, (f r).tag = r.tag)
    (d : List Record) (x : Tag) :
    (onTags tags f d).find? (fun r => r.tag == x)
      = (d.find? fun r => r.tag == x).map fun r => if x ∈ tags then f r else r := by
  induction d with
  | nil => rfl
  | cons q rest ih =>
    simp only [onTags, List.map_cons, List.find?_cons] at ih ⊢
    have ht : (if tags.contains q.tag then f q else q).tag = q.tag := by split <;> simp [hf]
    rw [ht]
    by_cases e : q.tag = x
    · simp [e]
    · have hb : (q.tag == x) = false := by simpa using e
      simpa [hb] using ih

theorem mem_onTags {tags : List Tag} {f : Record → Record} {d : List Record} {r : Record} :
    r ∈ onTags tags f d ↔ ∃ q ∈ d, r = if q.tag ∈ tags then f q else q := by
  simp [onTags, eq_comm]

/-- A retired directory holds the records in use, and those alone. -/
theorem State.mem_retire {s : State} {r : Record} :
    r ∈ s.retire.directory ↔ r ∈ s.directory ∧ r.isEmpty = false := by
  simp [State.retire, State.setDirectory]

/-! ### The epoch cells -/

/-- A write of one step's marks keeps the cells' steps strictly rising. -/
theorem putEpochMarks_sorted {n : Nat} {m : EpochMarks} {d : List (Nat × EpochMarks)}
    (h : (d.map Prod.fst).Pairwise (· < ·)) :
    ((putEpochMarks n m d).map Prod.fst).Pairwise (· < ·) ∧
      ∀ e ∈ putEpochMarks n m d, e.1 = n ∨ e ∈ d := by
  induction d with
  | nil => unfold putEpochMarks; split <;> simp
  | cons q rest ih =>
    have hc := List.pairwise_cons.1 (show ((q.1 :: rest.map Prod.fst).Pairwise (· < ·)) from h)
    obtain ⟨ihs, ihm⟩ := ih hc.2
    unfold putEpochMarks
    split
    · rename_i hlt
      split
      · exact ⟨h, fun e he => .inr he⟩
      · refine ⟨List.pairwise_cons.2 ⟨?_, h⟩, fun e he => ?_⟩
        · intro x hx
          rcases List.mem_cons.1 hx with rfl | hx
          · exact hlt
          · exact hlt.trans (hc.1 x hx)
        · rcases List.mem_cons.1 he with rfl | he
          · exact .inl rfl
          · exact .inr he
    · split
      · rename_i e
        split
        · exact ⟨hc.2, fun x hx => .inr (List.mem_cons_of_mem _ hx)⟩
        · refine ⟨List.pairwise_cons.2 ⟨fun x hx => e ▸ hc.1 x hx, hc.2⟩, fun x hx => ?_⟩
          rcases List.mem_cons.1 hx with rfl | hx
          · exact .inl rfl
          · exact .inr (List.mem_cons_of_mem _ hx)
      · rename_i hlt hne
        refine ⟨List.pairwise_cons.2 ⟨fun x hx => ?_, ihs⟩, fun x hx => ?_⟩
        · obtain ⟨p, hp, rfl⟩ := List.mem_map.1 hx
          rcases ihm p hp with h | h
          · omega
          · exact hc.1 _ (List.mem_map_of_mem h)
        · rcases List.mem_cons.1 hx with rfl | hx
          · exact .inr (List.mem_cons_self ..)
          · rcases ihm x hx with h | h
            · exact .inl h
            · exact .inr (List.mem_cons_of_mem _ h)

/-- A write of one step's marks lists no blank step that was not listed blank before. -/
theorem putEpochMarks_marks {n : Nat} {m : EpochMarks} {d : List (Nat × EpochMarks)}
    (h : ∀ e ∈ d, e.2 ≠ .blank) : ∀ e ∈ putEpochMarks n m d, e.2 ≠ .blank := by
  induction d with
  | nil =>
    unfold putEpochMarks
    split
    · simp
    · rename_i hm; simpa using hm
  | cons q rest ih =>
    have hr := fun e he => h e (List.mem_cons_of_mem _ he)
    unfold putEpochMarks
    split
    · split
      · exact h
      · rename_i hm
        intro e he
        rcases List.mem_cons.1 he with rfl | he
        · exact hm
        · exact h e he
    · split
      · split
        · exact hr
        · rename_i hm
          intro e he
          rcases List.mem_cons.1 he with rfl | he
          · exact hm
          · exact hr e he
      · intro e he
        rcases List.mem_cons.1 he with rfl | he
        · exact h _ (List.mem_cons_self ..)
        · exact ih hr e he

/-- A step reads the marks that were written to it, where they are not blank. -/
theorem epochMarks_putEpochMarks_self {n : Nat} {m : EpochMarks} (hm : m ≠ .blank)
    (d : List (Nat × EpochMarks)) : epochMarks n (putEpochMarks n m d) = m := by
  induction d with
  | nil => simp [putEpochMarks, epochMarks, hm]
  | cons q rest ih =>
    unfold putEpochMarks
    split
    · simp [epochMarks]
    · split
      · simp [epochMarks]
      · rename_i hlt hne
        have : (q.1 == n) = false := by simpa using fun e => hne e.symm
        simpa [epochMarks, List.find?_cons, this] using ih

/-- Every other step reads as before. -/
theorem epochMarks_putEpochMarks_of_ne {n k : Nat} {m : EpochMarks} (hm : m ≠ .blank) (h : k ≠ n)
    (d : List (Nat × EpochMarks)) : epochMarks k (putEpochMarks n m d) = epochMarks k d := by
  have hn : (n == k) = false := by simpa using h.symm
  induction d with
  | nil => simp [putEpochMarks, epochMarks, hm, hn]
  | cons q rest ih =>
    unfold putEpochMarks
    rw [if_neg hm, if_neg hm]
    split
    · simp [epochMarks, List.find?_cons, hn]
    · split
      · rename_i e
        have : (q.1 == k) = false := by rw [← e]; exact hn
        simp [epochMarks, hn, this]
      · by_cases e : q.1 = k
        · simp [epochMarks, e]
        · have : (q.1 == k) = false := by simpa using e
          simpa [epochMarks, List.find?_cons, this] using ih

/-! ### Removals, grants, posts -/

/-- The removal of a lease: nothing for a free slot; otherwise the lists of its tags, its countdown and its
slot change, and nothing else (R34). -/
theorem State.removeLease_eq (s : State) (i : LeaseSlot) :
    s.removeLease i = match s.lease i with
      | none => s
      | some x => { s with
          directory := onTags (tagsOf x.set) (Record.dropHolder i) s.directory
          leaseClock := s.leaseClock.set i { s.leaseClock[i] with running := false, value := 0 }
          leases := s.leases.set i none } := by
  unfold State.removeLease; cases s.lease i <;> rfl

/-- The removal of a wait: nothing for a free slot; otherwise its queues, the creation order, its countdown
and its slot change, and nothing else (R59). -/
theorem State.removeWait_eq (s : State) (w : WaitSlot) :
    s.removeWait w = match s.wait w with
      | none => s
      | some x => { s with
          directory := onTags (tagsOf x.set) (Record.dropWaiter w) s.directory
          waitClock := s.waitClock.set w { s.waitClock[w] with running := false, value := 0 }
          creation := s.creation.filter fun v => v != w
          waits := s.waits.set w none } := by
  unfold State.removeWait; cases s.wait w <;> rfl

/-- The grant of a lease touches the lease's slot, generation and countdown, the token unit and the
directory, and nothing else (R27, R50). -/
theorem State.grantLease_eq (s : State) (i : LeaseSlot) (o : Owner) (set : List Entry) (d : Word) :
    s.grantLease i o set d = { s with
      leases := s.leases.set i (some
        ⟨stepGeneration s.leaseGens[i], o, set, s.tokens.next, some d, .active⟩)
      leaseGens := s.leaseGens.set i (stepGeneration s.leaseGens[i])
      tokens := s.tokens.issue
      directory := (s.joinHolders i s.tokens.next set).directory
      leaseClock := s.leaseClock.set i
        ⟨true, d, stepGeneration s.leaseGens[i], s.leaseClock[i].mark⟩ } := rfl

/-- An abort of one wait is its removal and a post into its reservation. -/
theorem State.abortWait_eq (reason : AbortReason) (s : State) (w : WaitSlot) :
    State.abortWait reason s w = match s.wait w with
      | none => s
      | some x => (s.removeWait w).postReserved x.owner.link
          (.waitAborted x.owner.client ⟨w, x.gen⟩ reason) := by
  unfold State.abortWait; split <;> simp_all

/-- A free slot that the search gives is free, and no lower one is. -/
theorem State.freeLease?_eq_some {s : State} {i : LeaseSlot} (h : s.freeLease? = some i) :
    s.lease i = none ∧ ∀ j < i, s.lease j ≠ none := by
  unfold State.freeLease? at h
  rw [List.find?_eq_some_iff_append] at h
  obtain ⟨h1, as, bs, h2, h3⟩ := h
  refine ⟨by simpa using h1, fun j hj => ?_⟩
  have hs := List.pairwise_lt_finRange 256
  rw [h2, List.pairwise_append] at hs
  have hm : j ∈ as ++ i :: bs := h2 ▸ List.mem_finRange j
  rcases List.mem_append.1 hm with hm | hm
  · have := h3 j hm; intro e; simp [e] at this
  · rcases List.mem_cons.1 hm with rfl | hm
    · exact absurd hj (lt_irrefl _)
    · exact absurd (hj.trans ((List.pairwise_cons.1 hs.2.1).1 j hm)) (lt_irrefl _)

/-- The search finds the lowest free slot. -/
theorem State.freeLease?_of_lowest {s : State} {i : LeaseSlot} (h : s.lease i = none)
    (hl : ∀ j < i, s.lease j ≠ none) : s.freeLease? = some i := by
  cases hf : s.freeLease? with
  | none =>
    rw [State.freeLease?, List.find?_eq_none] at hf
    have := hf i (List.mem_finRange i)
    simp [h] at this
  | some j =>
    obtain ⟨h1, h2⟩ := State.freeLease?_eq_some hf
    rcases lt_trichotomy i j with hlt | rfl | hgt
    · exact absurd h (h2 i hlt)
    · rfl
    · exact absurd h1 (hl j hgt)

/-- A free wait slot that the search gives is free, and no lower one is. -/
theorem State.freeWait?_eq_some {s : State} {w : WaitSlot} (h : s.freeWait? = some w) :
    s.wait w = none ∧ ∀ v < w, s.wait v ≠ none := by
  unfold State.freeWait? at h
  rw [List.find?_eq_some_iff_append] at h
  obtain ⟨h1, as, bs, h2, h3⟩ := h
  refine ⟨by simpa using h1, fun j hj => ?_⟩
  have hs := List.pairwise_lt_finRange 128
  rw [h2, List.pairwise_append] at hs
  have hm : j ∈ as ++ w :: bs := h2 ▸ List.mem_finRange j
  rcases List.mem_append.1 hm with hm | hm
  · have := h3 j hm; intro e; simp [e] at this
  · rcases List.mem_cons.1 hm with rfl | hm
    · exact absurd hj (lt_irrefl _)
    · exact absurd (hj.trans ((List.pairwise_cons.1 hs.2.1).1 j hm)) (lt_irrefl _)

/-- The search finds the lowest free wait slot. -/
theorem State.freeWait?_of_lowest {s : State} {w : WaitSlot} (h : s.wait w = none)
    (hl : ∀ v < w, s.wait v ≠ none) : s.freeWait? = some w := by
  cases hf : s.freeWait? with
  | none =>
    rw [State.freeWait?, List.find?_eq_none] at hf
    have := hf w (List.mem_finRange w)
    simp [h] at this
  | some j =>
    obtain ⟨h1, h2⟩ := State.freeWait?_eq_some hf
    rcases lt_trichotomy w j with hlt | rfl | hgt
    · exact absurd h (h2 w hlt)
    · rfl
    · exact absurd h1 (hl j hgt)

/-! ### The token unit and the store -/

/-- A demand changes the unit's state, the store, the epoch cells and the work list, and nothing else. -/
theorem State.demandToken_eq (s : State) :
    s.demandToken = { s with
      tokens := s.demandToken.tokens
      store := s.demandToken.store
      cells := s.demandToken.cells
      workList := s.demandToken.workList } := by
  unfold State.demandToken State.requestAdvance State.startAdvance
  split
  · split
    · split <;> rfl
    · rfl
    · rfl
    · rfl
    · rfl
  · rfl

/-- The end of an operation changes the store, the epoch cells and the work list, and nothing else. -/
theorem State.endOperation_eq (s : State) :
    s.endOperation = { s with
      store := s.endOperation.store
      cells := s.endOperation.cells
      workList := s.endOperation.workList } := by
  unfold State.endOperation State.startAdvance
  split
  · split <;> rfl
  · rfl

/-- The arbiter takes a frame from one FIFO, an item from the work list, or nothing; nothing else changes. -/
theorem State.arbitrate_eq (s : State) :
    s.arbitrate = { s with
      links := s.arbitrate.links
      arbiter := s.arbitrate.arbiter
      inService := s.arbitrate.inService
      workList := s.arbitrate.workList } := by
  unfold State.arbitrate State.take
  split
  · rfl
  · split
    · split
      · split <;> rfl
      · split <;> rfl
    · rfl

/-- The arbiter leaves every part of a link but its FIFO. -/
theorem State.link_arbitrate (s : State) (l : Link) :
    ∃ fifo, s.arbitrate.link l = { s.link l with fifo := fifo } := by
  unfold State.arbitrate State.take
  split
  · exact ⟨_, rfl⟩
  · split
    · split
      · split <;> exact ⟨_, rfl⟩
      · rename_i k _
        split
        · exact ⟨_, rfl⟩
        · rename_i frame rest _
          by_cases e : l = k
          · subst e; exact ⟨rest, by simp [State.link, State.setLink]⟩
          · exact ⟨(s.link l).fifo, by simp [State.link, State.setLink, e]⟩
    · exact ⟨_, rfl⟩

/-! ### Requests -/

/-- A request row serves the frame in service, or queues the response held back, when its code is the row's,
and otherwise changes nothing. -/
theorem State.serveRequest_eq (s : State) (code : Byte) (rule : RequestRule) (extent : Extent) :
    s.serveRequest code rule extent = match s.inService with
      | some (.request l f) => if f.code = code then s.answerRequest rule extent l f else s
      | some (.answering l r) =>
        if r.code = code ∧ extent = .toItsEnd then (s.appendResponse l r).endItem else s
      | some (.internal _) => s
      | none => s := by
  unfold State.serveRequest State.serveCodes State.respond
  split <;> simp_all
  cases extent <;> simp

/-- What a request is answered that the preamble passes: its own rule's answer. -/
theorem State.judge_of_pass {s : State} {rule : RequestRule} {l : Link} {f : Frame}
    (h : s.preamble l f = none) : s.judge rule l f = rule s ⟨l, f.client⟩ f.payload := by
  simp [State.judge, h]

/-- A request that the preamble refuses changes nothing of itself, and its answer carries no payload. -/
theorem State.judge_of_refusal {s : State} {rule : RequestRule} {l : Link} {f : Frame}
    {o : OutcomeCode} (h : s.preamble l f = some o) : s.judge rule l f = (s, .plain o) := by
  simp [State.judge, h]

/-- A request served to its end: judged, its response queued, the item ended. -/
theorem State.answerRequest_toItsEnd (s : State) (rule : RequestRule) (l : Link) (f : Frame) :
    s.answerRequest rule .toItsEnd l f
      = ((s.judge rule l f).1.appendResponse l
          ⟨f.code, f.seq, (s.judge rule l f).2.outcome, (s.judge rule l f).2.payload⟩).endItem := rfl

/-- A request served up to its response: the same work, the response held back. -/
theorem State.answerRequest_toItsResponse (s : State) (rule : RequestRule) (l : Link) (f : Frame) :
    s.answerRequest rule .toItsResponse l f = { (s.judge rule l f).1 with
      inService := some (.answering l
        ⟨f.code, f.seq, (s.judge rule l f).2.outcome, (s.judge rule l f).2.payload⟩) } := rfl

/-! ### The promotion pass -/

/-- One step of the scan: a wait that is passed over, deferred, or granted (R53, R54, R62). -/
theorem State.scan_cons (s : State) (w : WaitSlot) (rest : List WaitSlot) (x : Wait)
    (h : s.wait w = some x) :
    State.scan (w :: rest) s =
      if s.standsFirst w x.set && s.admitsAll x.set then
        match s.freeLease? with
        | none => s
        | some i =>
          if s.tokens.state = .ready then
            if (s.grantWait w x i).tokens.state = .exhausted then
              (s.grantWait w x i).abortWaits .exhausted
            else State.scan rest (s.grantWait w x i)
          else s.demandToken
      else State.scan rest s := by
  simp only [State.scan, h]
  all_goals rfl

end Sys2Proof.Machine
end

