-- ==== Sys2Proof/Laws/PerInstr.lean ====
section
/-! SUPPORT. What well-formedness says of each row, one lemma for each constructor of `Instr`: a window row is
well formed exactly when its segment says something and, where it holds the window's first byte, that byte
is a code of the row (R161, R166); every other row is well formed with any operands. -/

namespace Sys2Proof.Laws

/-- The segment a window row carries, with the test of its code. -/
def WellFormedByRow.window? : Instr → Option (Segment × (Byte → Prop))
  | .requestFrame _ w => some (w, fun b => b ∉ fetchCodes)
  | .fetchResponse _ w => some (w, fun b => b = 0xA0)
  | .fetchDiscardResponse _ w => some (w, fun b => b = 0xA1)
  | .fetchNotice _ w => some (w, fun b => b = 0xA8)
  | .fetchDiscardNotice _ w => some (w, fun b => b = 0xA9)
  | _ => none

/-- Well-formedness of a row, in words of its syntax alone. -/
def WellFormedByRow.Statement (i : Instr) : Prop :=
  i.wellFormed = true ↔ ∀ w ok, WellFormedByRow.window? i = some (w, ok) →
    (w.falls = true ∨ w.rises = true ∨ w.bytes ≠ []) ∧
      (w.falls = true → ∀ b, w.bytes.head? = some b → ok b)

/-- A row without a window is well formed. -/
theorem WellFormedByRow.of_no_window {i : Instr} (h : WellFormedByRow.window? i = none)
    (hw : i.wellFormed = true) : WellFormedByRow.Statement i :=
  ⟨fun _ w ok e => by simp [h] at e, fun _ => hw⟩

/-- A row with a window, whose test on bytes is the one its row names. -/
theorem WellFormedByRow.of_window {i : Instr} {w : Segment} {ok : Byte → Prop} {test : Byte → Bool}
    (h : WellFormedByRow.window? i = some (w, ok)) (ht : ∀ b, test b = true ↔ ok b)
    (hw : i.wellFormed = (w.saysSomething && w.codeMeets test)) :
    WellFormedByRow.Statement i := by
  unfold WellFormedByRow.Statement
  rw [hw, h]
  simp only [Option.some.injEq, Prod.mk.injEq, Bool.and_eq_true]
  have hs : w.saysSomething = true ↔ w.falls = true ∨ w.rises = true ∨ w.bytes ≠ [] := by
    simp [Segment.saysSomething, or_assoc]
  have hc : w.codeMeets test = true ↔ (w.falls = true → ∀ b, w.bytes.head? = some b → ok b) := by
    cases hf : w.falls <;> cases hh : w.bytes.head? <;> simp [Segment.codeMeets, hf, hh, ht]
  rw [hs, hc]
  constructor
  · rintro ⟨h1, h2⟩ w' ok' ⟨rfl, rfl⟩
    exact ⟨h1, h2⟩
  · intro h1
    exact h1 w ok ⟨rfl, rfl⟩

theorem WellFormedByRow.deviceReset (tear : Tear) :
    WellFormedByRow.Statement (.deviceReset tear) :=
  WellFormedByRow.of_no_window rfl rfl

theorem WellFormedByRow.resetRelease (low : PerLink Bool) :
    WellFormedByRow.Statement (.resetRelease low) :=
  WellFormedByRow.of_no_window rfl rfl

theorem WellFormedByRow.startUpLoad :
    WellFormedByRow.Statement .startUpLoad :=
  WellFormedByRow.of_no_window rfl rfl

theorem WellFormedByRow.tick :
    WellFormedByRow.Statement .tick :=
  WellFormedByRow.of_no_window rfl rfl

theorem WellFormedByRow.countdownReachesZero (name : CountdownName) :
    WellFormedByRow.Statement (.countdownReachesZero name) :=
  WellFormedByRow.of_no_window rfl rfl

theorem WellFormedByRow.requestFrame (link : Link) (window : Segment) :
    WellFormedByRow.Statement (.requestFrame link window) :=
  WellFormedByRow.of_window rfl (fun _ => by simp) rfl

theorem WellFormedByRow.statusRead (link : Link) (byte : Byte) :
    WellFormedByRow.Statement (.statusRead link byte) :=
  WellFormedByRow.of_no_window rfl rfl

theorem WellFormedByRow.fetchResponse (link : Link) (window : Segment) :
    WellFormedByRow.Statement (.fetchResponse link window) :=
  WellFormedByRow.of_window rfl (fun _ => by simp) rfl

theorem WellFormedByRow.fetchDiscardResponse (link : Link) (window : Segment) :
    WellFormedByRow.Statement (.fetchDiscardResponse link window) :=
  WellFormedByRow.of_window rfl (fun _ => by simp) rfl

theorem WellFormedByRow.fetchNotice (link : Link) (window : Segment) :
    WellFormedByRow.Statement (.fetchNotice link window) :=
  WellFormedByRow.of_window rfl (fun _ => by simp) rfl

theorem WellFormedByRow.fetchDiscardNotice (link : Link) (window : Segment) :
    WellFormedByRow.Statement (.fetchDiscardNotice link window) :=
  WellFormedByRow.of_window rfl (fun _ => by simp) rfl

theorem WellFormedByRow.acquire (extent : Extent) :
    WellFormedByRow.Statement (.acquire extent) :=
  WellFormedByRow.of_no_window rfl rfl

theorem WellFormedByRow.renew (extent : Extent) :
    WellFormedByRow.Statement (.renew extent) :=
  WellFormedByRow.of_no_window rfl rfl

theorem WellFormedByRow.release (extent : Extent) :
    WellFormedByRow.Statement (.release extent) :=
  WellFormedByRow.of_no_window rfl rfl

theorem WellFormedByRow.downgrade (extent : Extent) :
    WellFormedByRow.Statement (.downgrade extent) :=
  WellFormedByRow.of_no_window rfl rfl

theorem WellFormedByRow.cancel (extent : Extent) :
    WellFormedByRow.Statement (.cancel extent) :=
  WellFormedByRow.of_no_window rfl rfl

theorem WellFormedByRow.query (extent : Extent) :
    WellFormedByRow.Statement (.query extent) :=
  WellFormedByRow.of_no_window rfl rfl

theorem WellFormedByRow.check (extent : Extent) :
    WellFormedByRow.Statement (.check extent) :=
  WellFormedByRow.of_no_window rfl rfl

theorem WellFormedByRow.list (extent : Extent) :
    WellFormedByRow.Statement (.list extent) :=
  WellFormedByRow.of_no_window rfl rfl

theorem WellFormedByRow.detach (extent : Extent) :
    WellFormedByRow.Statement (.detach extent) :=
  WellFormedByRow.of_no_window rfl rfl

theorem WellFormedByRow.linkConfig (extent : Extent) :
    WellFormedByRow.Statement (.linkConfig extent) :=
  WellFormedByRow.of_no_window rfl rfl

theorem WellFormedByRow.status (extent : Extent) :
    WellFormedByRow.Statement (.status extent) :=
  WellFormedByRow.of_no_window rfl rfl

theorem WellFormedByRow.caps (extent : Extent) :
    WellFormedByRow.Statement (.caps extent) :=
  WellFormedByRow.of_no_window rfl rfl

theorem WellFormedByRow.pinTable (extent : Extent) :
    WellFormedByRow.Statement (.pinTable extent) :=
  WellFormedByRow.of_no_window rfl rfl

theorem WellFormedByRow.pin (extent : Extent) :
    WellFormedByRow.Statement (.pin extent) :=
  WellFormedByRow.of_no_window rfl rfl

theorem WellFormedByRow.unpin (extent : Extent) :
    WellFormedByRow.Statement (.unpin extent) :=
  WellFormedByRow.of_no_window rfl rfl

theorem WellFormedByRow.revoke (extent : Extent) :
    WellFormedByRow.Statement (.revoke extent) :=
  WellFormedByRow.of_no_window rfl rfl

theorem WellFormedByRow.forceDetach (extent : Extent) :
    WellFormedByRow.Statement (.forceDetach extent) :=
  WellFormedByRow.of_no_window rfl rfl

theorem WellFormedByRow.setTick (extent : Extent) :
    WellFormedByRow.Statement (.setTick extent) :=
  WellFormedByRow.of_no_window rfl rfl

theorem WellFormedByRow.clear (extent : Extent) :
    WellFormedByRow.Statement (.clear extent) :=
  WellFormedByRow.of_no_window rfl rfl

theorem WellFormedByRow.unknownRequest (extent : Extent) :
    WellFormedByRow.Statement (.unknownRequest extent) :=
  WellFormedByRow.of_no_window rfl rfl

theorem WellFormedByRow.advance (beginStep doneStep : StepResult) :
    WellFormedByRow.Statement (.advance beginStep doneStep) :=
  WellFormedByRow.of_no_window rfl rfl

theorem WellFormedByRow.pinWrite (dataStep validStep voidStep : StepResult) :
    WellFormedByRow.Statement (.pinWrite dataStep validStep voidStep) :=
  WellFormedByRow.of_no_window rfl rfl

theorem WellFormedByRow.pinVoid (voidStep : StepResult) :
    WellFormedByRow.Statement (.pinVoid voidStep) :=
  WellFormedByRow.of_no_window rfl rfl

theorem WellFormedByRow.pendingAdvanceStart :
    WellFormedByRow.Statement .pendingAdvanceStart :=
  WellFormedByRow.of_no_window rfl rfl

theorem WellFormedByRow.expiry :
    WellFormedByRow.Statement .expiry :=
  WellFormedByRow.of_no_window rfl rfl

theorem WellFormedByRow.timeout :
    WellFormedByRow.Statement .timeout :=
  WellFormedByRow.of_no_window rfl rfl

theorem WellFormedByRow.loadCompletion :
    WellFormedByRow.Statement .loadCompletion :=
  WellFormedByRow.of_no_window rfl rfl

theorem WellFormedByRow.advanceCompletion :
    WellFormedByRow.Statement .advanceCompletion :=
  WellFormedByRow.of_no_window rfl rfl

theorem WellFormedByRow.pinWriteCompletion :
    WellFormedByRow.Statement .pinWriteCompletion :=
  WellFormedByRow.of_no_window rfl rfl

theorem WellFormedByRow.pinVoidCompletion :
    WellFormedByRow.Statement .pinVoidCompletion :=
  WellFormedByRow.of_no_window rfl rfl

theorem WellFormedByRow.selectRiseAfterReset (link : Link) :
    WellFormedByRow.Statement (.selectRiseAfterReset link) :=
  WellFormedByRow.of_no_window rfl rfl

end Sys2Proof.Laws
end

