-- ==== Sys2Proof/Tests/Slice0.lean ====
section
/-! SUPPORT. The model's own tests: the checks of WellFormed, one step of each command on a small state with
its result taken from the spec's worked examples and tables, and, for each statement with hypotheses, a
state and operands that meet them. -/

namespace Sys2Proof.Tests

open Sys2Proof.Machine

set_option Elab.async false

/-! ### Small states -/

/-- The state a command leaves. -/
def after (c : Instr) (s : State) : State :=
  match exec c s with
  | .next t => t
  | .fault f => nomatch f
  | .refused _ => s

/-- The load done, no pin, the unit READY in epoch 1 with next serial 1 (chapters 1 and 2). -/
def up : State :=
  { State.reset with
    resetLow := false
    loading := false
    tokens := ⟨.ready, 1, 1⟩
    store := { Store.reset with controller := .idle, begun := 1 }
    cells := { Cells.new with epochs := [(1, ⟨.complete, .complete⟩)] } }

/-- The state with a request in service. -/
def asking (s : State) (l : Link) (code : Byte) (client : Client) (p : List Byte) : State :=
  { s with inService := some (.request l ⟨code, 0x42, client, p⟩) }

/-- The state with an item of the internal work list in service. -/
def doing (s : State) (item : WorkItem) : State := { s with inService := some (.internal item) }

/-- What a link was last answered. -/
def answered (s : State) (l : Link) : Option (OutcomeCode × Payload) :=
  (s.link l).responses.getLast?.map fun r => (r.outcome, r.payload)

/-- A token of epoch 1. -/
def token (serial : BitVec 24) : Token := Token.make 1 serial

/-- The start of chapter 3's first example: L0 of B/2 on 0x0500, L1 of D/0 on 0x0501. -/
def held : State :=
  ({ up with tokens := ⟨.ready, 1, 3⟩ }.grantLease 0 ⟨.b, 2⟩ [⟨0x0500, .exclusive⟩] 500).grantLease 1
    ⟨.d, 0⟩ [⟨0x0501, .shared⟩] 500

/-- The set of the wait Wa. -/
def setA : List Entry := [⟨0x0500, .exclusive⟩, ⟨0x0501, .exclusive⟩]

/-- The same example after its second line: Wa and Wb stand. -/
def both : State :=
  (held.createWait 0 ⟨.a, 1⟩ ⟨400, 300, setA⟩).createWait 1 ⟨.c, 3⟩ ⟨100, 300, [⟨0x0501, .shared⟩]⟩

/-- The same example after its fifth line: Wa granted as La. -/
def granted : State := ((both.removeLease 0).removeLease 1).passAndRetire

/-- The data of chapter 7's example. -/
def pinData : PinData := ⟨0x0B00, ⟨.c, 2⟩⟩

/-- The start of chapter 7's example: pin slots 0 to 2 VOID. -/
def spent : State :=
  ((up.setSlotEntry 0 ⟨.void, pinData, false⟩).setSlotEntry 1 ⟨.void, pinData, false⟩).setSlotEntry 2
    ⟨.void, pinData, false⟩

/-- Chapter 7's example after the ACCEPTED PIN, after the good write, and after the ACCEPTED UNPIN. -/
def pinning : State := spent.acceptPin 4 pinData 3 0

def pinned : State :=
  ((pinning.setSlotEntry 3 ⟨.active, pinData, true⟩).setController .idle).servePinWrite 3 .good

def unpinning : State :=
  { pinned with
    leases := pinned.leases.set 0 (some ⟨1, ⟨.c, 2⟩, [⟨0x0B00, .exclusive⟩], 0, none, .unpinning⟩)
    directory := [⟨0x0B00, [⟨0, .exclusive⟩], [], 0, .unpinning 3⟩]
    pinOps := [⟨.void, 3, 0x0B00, ⟨.c, 2⟩, 0, 4⟩]
    store := { pinned.store with controller := .busyPinVoid 3 }
    notices := { pinned.notices with a := { pinned.notices.a with reserved := 1 } } }

/-- Leases, waits and a pin write in flight, and the command that ends it waiting. -/
def busy : State :=
  { both.acceptPin 4 pinData 3 2 with pending := [.pinWrite .good .good .good] }

/-! ### Syntax -/

theorem test_wellFormed_requestFrame_empty_stretch :
    (Instr.requestFrame .a ⟨false, [], false⟩).wellFormed = false := by decide

theorem test_wellFormed_requestFrame_fetch_code :
    (Instr.requestFrame .a (.whole [0xA0])).wellFormed = false := by decide

theorem test_wellFormed_fetchResponse_other_code :
    (Instr.fetchResponse .b (.whole [0xA1, 0x5E])).wellFormed = false := by decide

theorem test_wellFormed_fetchDiscardResponse_other_code :
    (Instr.fetchDiscardResponse .b (.whole [0xA0, 0x5F])).wellFormed = false := by decide

theorem test_wellFormed_fetchNotice_other_code :
    (Instr.fetchNotice .c (.whole [0xA9, 0x56])).wellFormed = false := by decide

theorem test_wellFormed_fetchDiscardNotice_other_code :
    (Instr.fetchDiscardNotice .d (.whole [0xA8, 0x57])).wellFormed = false := by decide

/-- A later stretch may begin with any byte. -/
theorem test_wellFormed_later_stretch :
    (Instr.requestFrame .a ⟨false, [0xA0], true⟩).wellFormed = true := by decide

/-- The table gives no row any bits. -/
theorem test_decodeTableWord : decodeTableWord 8 0x10 = none := rfl

/-! ### Formats -/

/-- R187: over the nine bytes 0x31 to 0x39 the CRC is 0x29B1. -/
theorem test_crc_nine : crc [0x31, 0x32, 0x33, 0x34, 0x35, 0x36, 0x37, 0x38, 0x39] = 0x29B1 := by
  decide +kernel

/-- R187: an empty queue is presented as 0x00, 0xE1, 0xF0. -/
theorem test_presentation_empty : presentation none = [0x00, 0xE1, 0xF0] := by decide +kernel

/-- Chapter 12's example: the response to the RENEW of handle 7/2. -/
theorem test_renew_record :
    (Response.mk 0x11 0x42 .done (.duration 500)).bytes = [0x11, 0x42, 0x00, 0x01, 0xF4] := by decide

/-- R83: epoch 1 and serial 1 are the token 16,777,217, the last of all 1,099,511,627,775. -/
theorem test_tokens :
    (Token.make 1 1).toNat = 16777217 ∧ (Token.make 65535 16777215).toNat = 1099511627775 := by decide

/-! ### Reset and the load -/

theorem test_deviceReset : (after (.deviceReset .asTheyStand) both).creation = [] := by decide +kernel

theorem test_resetRelease :
    ((after (.resetRelease ⟨true, false, false, false⟩) State.reset).link .a).receiver
      = .lowSinceReset := by decide +kernel

theorem test_selectRiseAfterReset :
    ((after (.selectRiseAfterReset .a)
      (after (.resetRelease ⟨true, false, false, false⟩) State.reset)).link .a).receiver = .idle := by
  decide +kernel

/-- Chapter 6's damaged slots, numbered 4 to 8 as there. -/
def damaged : Cells :=
  { Cells.new with
    pins := Vector.ofFn fun k : Fin 24 =>
      let d : DataCells := .complete .asWritten ⟨0x0100, ⟨.b, 7⟩⟩ (PinData.check ⟨0x0100, ⟨.b, 7⟩⟩)
      let e : DataCells := .complete .asWritten ⟨0x0101, ⟨.b, 7⟩⟩ (PinData.check ⟨0x0101, ⟨.b, 7⟩⟩)
      if k = 4 ∨ k = 8 then ⟨d, .complete, .blank⟩
      else if k = 5 then ⟨.partly, .blank, .blank⟩
      else if k = 6 then ⟨d, .partly, .complete⟩
      else if k = 7 then ⟨e, .complete, .partly⟩
      else .blank }

theorem test_startUpLoad :
    (([3, 4, 5, 6, 7, 8, 9] : List (Fin 24)).map fun k =>
      (after .startUpLoad { State.reset with resetLow := false, cells := damaged }).store.slots[k].state)
      = [.blank, .active, .void, .void, .void, .void, .blank] := by decide +kernel

/-- Chapter 6's example: the load item makes B/7's pin. -/
theorem test_loadCompletion :
    let s := after .loadCompletion
      (doing { State.reset with resetLow := false } (.load 12 [(0, ⟨0x0A00, ⟨.b, 7⟩⟩)]))
    s.lease 0 = some ⟨1, ⟨.b, 7⟩, [⟨0x0A00, .exclusive⟩], 0, none, .pinned⟩
      ∧ s.loading = false ∧ s.tokens.state = .unarmed := by decide +kernel

/-! ### The clock (chapter 4's example) -/

/-- Lease slot 3 with the countdown given. -/
def onSlot3 (c : Countdown) : State :=
  { (up.setLease 3 (some ⟨5, ⟨.b, 0⟩, [⟨0x0700, .shared⟩], token 1, some 1, .active⟩)) with
    directory := [⟨0x0700, [⟨3, .shared⟩], [], token 1, .unpinned⟩]
    leaseClock := up.leaseClock.set 3 c }

/-- The sixth line: the mark is set, so no item is appended. -/
theorem test_tick :
    (after .tick (onSlot3 ⟨true, 1, 5, true⟩)).countdown (.lease 3) = ⟨true, 0, 5, true⟩
      ∧ (after .tick (onSlot3 ⟨true, 1, 5, true⟩)).inService = none
      ∧ (after .tick (onSlot3 ⟨true, 1, 5, false⟩)).inService = some (.internal (.expiry 3 5)) := by
  decide +kernel

theorem test_countdownReachesZero :
    (after (.countdownReachesZero (.lease 3)) (onSlot3 ⟨true, 0, 5, false⟩)).inService
      = some (.internal (.expiry 3 5)) := by decide +kernel

/-- The seventh and eighth lines: the old item is discarded and a new one stands at once; that one ends
the lease. -/
theorem test_expiry :
    (after .expiry (doing (onSlot3 ⟨true, 0, 5, true⟩) (.expiry 3 4))).inService
        = some (.internal (.expiry 3 5))
      ∧ (after .expiry (doing (onSlot3 ⟨true, 0, 5, true⟩) (.expiry 3 5))).lease 3 = none := by
  decide +kernel

/-- A wait of 1 tick, run out. -/
def late : State := { both with waitClock := both.waitClock.set 0 ⟨true, 0, 1, true⟩ }

theorem test_timeout :
    let s := after .timeout (doing late (.timeout 0 1))
    (s.noticeQueue .a).stored = [.waitTimeout 1 ⟨0, 1⟩] ∧ (s.noticeQueue .a).reserved = 0 := by
  decide +kernel

theorem test_setTick :
    (after .setTick (asking up .a 0x44 0 [0x07, 0xCF])).dividerRequested = 1999
      ∧ answered (after .setTick (asking up .a 0x44 0 [0x07, 0xD0])) .a
        = some (.badParam, .empty) := by decide +kernel

/-! ### Leases and waits (the examples of chapters 2 and 3) -/

theorem test_acquire_grants :
    answered (after .acquire (asking up .b 0x10 1
      (acquirePayload 500 0 [⟨0x0040, .exclusive⟩] (List.replicate 9 0)))) .b
      = some (.granted, .granted ⟨0, 1⟩ (token 1) 500) := by decide +kernel

theorem test_acquire_waits_or_not :
    answered (after .acquire (asking held .a 0x10 1
        (acquirePayload 400 300 setA (List.replicate 6 0)))) .a
        = some (.queued, .queued ⟨0, 1⟩ [0, 0])
      ∧ answered (after .acquire (asking both .b 0x10 5
        (acquirePayload 400 0 [⟨0x0500, .shared⟩] (List.replicate 9 0)))) .b
        = some (.conflict, .entry 1) := by decide +kernel

theorem test_renew :
    answered (after .renew (asking held .b 0x11 2
        (handleBytes ⟨0, 1⟩ ++ tokenBytes (token 3) ++ wordBytes 0))) .b = some (.done, .duration 500)
      ∧ answered (after .renew (asking held .c 0x11 2
        (handleBytes ⟨0, 1⟩ ++ tokenBytes (token 3) ++ wordBytes 0))) .c = some (.stale, .empty) := by
  decide +kernel

/-- The fifth line of chapter 3's first example. -/
theorem test_release :
    ((after .release (asking (both.removeLease 0) .d 0x12 0
      (handleBytes ⟨1, 1⟩ ++ tokenBytes (token 4)))).noticeQueue .a).stored
      = [.granted 1 ⟨0, 1⟩ ⟨0, 2⟩ (token 5) 400 setA] := by decide +kernel

/-- Its sixth line. -/
theorem test_downgrade :
    let s := after .downgrade
      (asking granted .a 0x13 1 (handleBytes ⟨0, 2⟩ ++ tokenBytes (token 5)))
    answered s .a = some (.done, .changed 2)
      ∧ (s.noticeQueue .c).stored
        = [.granted 3 ⟨1, 1⟩ ⟨1, 2⟩ (token 6) 100 [⟨0x0501, .shared⟩]] := by decide +kernel

theorem test_cancel :
    let s := after .cancel (asking both .a 0x14 1 [0, 1])
    answered s .a = some (.done, .empty) ∧ (s.noticeQueue .a) = .reset := by decide +kernel

/-! ### Readings -/

theorem test_query :
    answered (after .query (asking both .d 0x20 0 [0x05, 0x00])) .d = some (.done, .query
      ⟨true, .exclusive, 1, 1, token 3, [⟨⟨.b, 2⟩, .exclusive, some 500⟩],
        some ⟨⟨.a, 1⟩, .exclusive⟩⟩) := by decide +kernel

theorem test_check :
    answered (after .check (asking both .d 0x21 0 ([0x05, 0x00] ++ tokenBytes (token 3)))) .d
      = some (.done, .check true (token 3)) := by decide +kernel

theorem test_list :
    answered (after .list (asking held .d 0x22 0 [0, 0])) .d
      = some (.done, .list 0xFFFF [.lease ⟨1, 1⟩ 0 .active (some 500) 0x0501]) := by decide +kernel

/-- Chapter 7's example: PIN-TABLE shows the failed void's slot as VOID with pin state pinned. -/
theorem test_pinTable :
    answered (after .pinTable
      (asking (pinned.setSlotEntry 3 ⟨.void, pinData, true⟩) .d 0x34 0 [18])) .d
        = some (.done, .pinTable 18 0xFF
          (([18, 19, 20, 21, 22, 23] : List (Fin 24)).map fun k => ⟨k, .blank, .unpinned, none⟩))
      ∧ (pinned.setSlotEntry 3 ⟨.void, pinData, true⟩).pinTableEntry 3
        = ⟨3, .void, .pinned 3, some pinData⟩ := by decide +kernel

theorem test_status :
    ((after .status (asking both .c 0x32 0 [0])).link .c).responses.map Response.bytes
      = [[0x32, 0x42, 0x00, 0x80, 0, 0, 0, 0, 0, 0, 1, 2, 0, 1, 0, 0, 5, 1, 0, 0xFF, 0xFE, 24]] := by
  decide +kernel

theorem test_caps :
    ((after .caps (asking up .c 0x33 0 [])).link .c).responses.map (List.length ∘ Response.bytes)
      = [33] := by decide +kernel

theorem test_linkConfig :
    ((after .linkConfig (asking up .b 0x31 0 [0, 1, 8, 0])).link .b).settings
        = ⟨false, true, 8, false⟩
      ∧ answered (after .linkConfig (asking up .b 0x31 0 [0, 1, 9, 0])) .b
        = some (.badParam, .empty) := by decide +kernel

/-! ### Pins (chapter 7's example) and the store (chapter 6's) -/

theorem test_pin :
    let s := after .pin (asking spent .a 0x40 4 [0x0B, 0x00, 0x02, 2])
    answered s .a = some (.accepted, .pin 3 0x0B00) ∧ s.store.controller = .busyPinWrite 3 := by
  decide +kernel

theorem test_unpin :
    answered (after .unpin (asking pinned .a 0x41 4 [3])) .a = some (.accepted, .pin 3 0x0B00)
      ∧ answered (after .unpin (asking pinning .a 0x41 4 [3])) .a
        = some (.notFound, .empty) := by decide +kernel

theorem test_pinWriteCompletion :
    let s := after .pinWriteCompletion (doing (pinning.setController .idle) (.pinWrite 3 .good))
    (s.noticeQueue .a).stored = [.pinDone 4 3 0x0B00]
      ∧ (s.noticeQueue .c).stored = [.pinned 2 0x0B00 3] := by decide +kernel

theorem test_pinVoidCompletion :
    let s := after .pinVoidCompletion (doing (unpinning.setController .idle) (.pinVoid 3 .failed))
    (s.noticeQueue .a).stored = [.pinDone 4 3 0x0B00, .unpinFailed 4 3 0x0B00]
      ∧ (s.lease 0).map Lease.state = some .pinned := by decide +kernel

/-- A pin write with an advance held pending behind it: the advance starts in the same moment. -/
theorem test_pinWrite :
    let s := after (.pinWrite .good .good .good) (pinning.setPendingAdvance true)
    s.store.controller = .busyAdvance 2 ∧ s.inService = some (.internal (.pinWrite 3 .good)) := by
  decide +kernel

theorem test_pinVoid :
    (after (.pinVoid .failed) unpinning).store.slots[3].state = .void := by decide +kernel

theorem test_advance :
    (after (.advance .good .failed) (up.setController (.busyAdvance 1))).cells.epochs
      = [(1, ⟨.complete, .partly⟩)] := by decide +kernel

/-- R101: the begun count and the begin mark of the step agree while the advance runs. -/
theorem test_pendingAdvanceStart :
    let s := after .pendingAdvanceStart (up.setPendingAdvance true)
    s.store.begun = 2 ∧ s.cells.begunCount = 2
      ∧ (after (.deviceReset .asTheyStand) s).cells.begunCount = 2 := by decide +kernel

theorem test_advanceCompletion :
    (after .advanceCompletion (doing { up with tokens := ⟨.advancing, 0, 0⟩ }
        (.advance 13 .good))).tokens = ⟨.ready, 13, 1⟩
      ∧ (after .advanceCompletion (doing { both with tokens := ⟨.advancing, 1, 0⟩ }
        (.advance 2 .failed))).creation = [] := by decide +kernel

/-! ### Administration -/

theorem test_revoke :
    let s := after .revoke (asking held .a 0x42 0 [0x05, 0x00])
    answered s .a = some (.done, .revoked 1)
      ∧ (s.noticeQueue .b).stored = [.revoked 2 ⟨0, 1⟩ (token 3) 0x0500] := by decide +kernel

theorem test_detach :
    answered (after .detach (asking both .c 0x30 3 [0])) .c = some (.done, .removed 0 1) := by
  decide +kernel

theorem test_forceDetach :
    ((after .forceDetach (asking both .a 0x43 7 [2])).noticeQueue .c).stored
      = [.detached 7 0 1] := by decide +kernel

theorem test_clear :
    let s := after .clear (asking both .a 0x45 7 [])
    answered s .a = some (.done, .removed 2 2) ∧ (s.noticeQueue .d).stored = [.cleared 7] := by
  decide +kernel

theorem test_unknownRequest :
    answered (after .unknownRequest (asking up .c 0x15 0 [])) .c
      = some (.badRequest, .empty) := by decide +kernel

/-- R156: a notice is fetched whose item's response is not yet queued; then the response is queued. -/
theorem test_forceDetach_notice_before_response :
    let s := after (.forceDetach .toItsResponse) (asking both .a 0x43 7 [2])
    let t := after (.fetchNotice .c (.whole ([0xA8, 0x57] ++ List.replicate 27 0))) s
    (t.noticeQueue .c).presented = true ∧ answered t .a = none
      ∧ answered (after .forceDetach t) .a = some (.done, .removed 0 1)
      ∧ (after .forceDetach t).inService = none := by decide +kernel

/-! ### Links (chapter 10's example, on Link B) -/

/-- A request frame with its CRC. -/
def frame (code client : Byte) (p : List Byte) : List Byte :=
  let b := [code, 0x42, client, BitVec.ofNat 8 p.length] ++ p
  b ++ wordBytes (crc b)

/-- One response waits on Link B. -/
def answering : State := up.appendResponse .b ⟨0x20, 0x42, .done, .duration 500⟩

theorem test_requestFrame :
    (after (.requestFrame .b (.whole (frame 0x20 0 [0x05, 0x00]))) up).inService
        = some (.request .b ⟨0x20, 0x42, 0, [0x05, 0x00]⟩)
      ∧ ((after (.requestFrame .b (.whole [0x20, 0x42, 0, 0, 0, 0])) up).link .b).crcCount = 1 := by
  decide +kernel

theorem test_statusRead :
    ((after (.statusRead .a 0x00) answering).link .a).dout = [0x81] := by decide +kernel

/-- R159, R161: DOUT is high-impedance until select falls; then the status byte is on it, and 0xFF after. -/
theorem test_output :
    let s := after (.requestFrame .a ⟨true, [], false⟩) answering
    answering.output .a = .highZ ∧ State.reset.output .a = .highZ ∧ s.output .a = .drives 0x81
      ∧ (after (.requestFrame .a ⟨false, [0x20], false⟩) s).output .a = .drives 0xFF
      ∧ (after (.requestFrame .a ⟨false, [], true⟩) s).output .a = .highZ := by decide +kernel

/-- R168: after the complement the length byte of the presentation is on DOUT; an empty queue gives 0. -/
theorem test_output_presentation :
    (after (.fetchResponse .b ⟨true, [0xA0, 0x5F], false⟩) answering).output .b = .drives 5
      ∧ (after (.fetchResponse .b ⟨true, [0xA0, 0x5F], false⟩) up).output .b = .drives 0
      ∧ (after (.fetchResponse .b ⟨true, [0xA0, 0x5A], false⟩) up).output .b = .drives 0xFF := by
  decide +kernel

/-- The third and fifth windows of the example. -/
theorem test_fetchResponse :
    ((after (.fetchResponse .b (.whole [0xA0, 0x5A])) answering).link .b).frameCount = 1
      ∧ ((after (.fetchResponse .b (.whole ([0xA0, 0x5F] ++ List.replicate 8 0))) answering).link
        .b).presented = true := by decide +kernel

/-- Its sixth window: the marked head goes, and the status byte shows it still. -/
theorem test_fetchDiscardResponse :
    let s := after (.fetchDiscardResponse .b (.whole [0xA1, 0x5E])) (answering.markHead .b 0xA0)
    (s.link .b).responses = [] ∧ (s.link .b).dout = [0xC0, 0xFF] := by decide +kernel

/-- One notice waits on Link D. -/
def noticed : State := up.postUnreserved .d (.cleared 7)

theorem test_fetchNotice :
    ((after (.fetchNotice .d (.whole ([0xA8, 0x57] ++ List.replicate 27 0))) noticed).noticeQueue
        .d).presented = true
      ∧ ((after (.fetchNotice .d (.whole ([0xA8, 0x57] ++ List.replicate 26 0))) noticed).noticeQueue
        .d).presented = false := by decide +kernel

theorem test_fetchDiscardNotice :
    ((after (.fetchDiscardNotice .d (.whole [0xA9, 0x56])) (noticed.markHead .d 0xA8)).noticeQueue
      .d).stored = [] := by decide +kernel

/-- Chapter 9's example: with B's queue full, decision 3 passes over it to D. -/
theorem test_arbiter :
    let s := { up with arbiter := .link .a }
    let full : LinkState := { LinkState.reset with
      fifo := [⟨0x11, 1, 0, []⟩], responses := List.replicate 8 ⟨0x20, 0, .done, .empty⟩ }
    ((s.setLink .b full).setLink .d
      { LinkState.reset with fifo := [⟨0x12, 1, 0, []⟩] }).arbitrate.arbiter = .link .d := by
  decide +kernel

/-! ### Witnesses: states and operands that meet the hypotheses of the statements -/

theorem witness_StepTakesTheFrontCommand :
    busy.pending = [.pinWrite .good .good .good] ∧ up.pending = [] := ⟨rfl, rfl⟩

/-- The state of chapter 9's third decision, B passed over, and one whose list holds an item. -/
def turning : State :=
  (({ up with arbiter := .link .a }.setLink .b { LinkState.reset with
      fifo := [⟨0x11, 1, 0, []⟩], responses := List.replicate 8 ⟨0x20, 0, .done, .empty⟩ }).setLink .d
    { LinkState.reset with fifo := [⟨0x12, 1, 0, []⟩] })

/-- A list with an item, its turn next. -/
def listed : State := { up with arbiter := .link .d, workList := [.expiry 3 5] }

theorem witness_ArbiterTakesTheFirstEligibleSource :
    turning.inService = none
      ∧ turning.arbiter.cycleAfter = [.link .b, .link .c] ++ .link .d :: [.internal, .link .a]
      ∧ (∀ x ∈ [Source.link .b, .link .c], turning.eligible x = false)
      ∧ turning.eligible (.link .d) = true ∧ (turning.link .d).fifo = [⟨0x12, 1, 0, []⟩]
      ∧ (asking up .a 0x33 0 []).inService.isSome = true
      ∧ (∀ x ∈ Source.internal.cycleAfter, up.eligible x = false)
      ∧ listed.arbiter.cycleAfter = [] ++ .internal :: [.link .a, .link .b, .link .c, .link .d]
      ∧ listed.eligible .internal = true := by
  exact ⟨rfl, rfl, by decide +kernel, by decide +kernel, rfl, rfl, by decide +kernel, rfl, rfl⟩

/-- Link A's select has been low since before RESET# rose. -/
def lowSelect : State := up.setLink .a { LinkState.reset with receiver := .lowSinceReset }

theorem witness_ResetValuesAndTheReleaseOfReset :
    State.reset.resetLow = true ∧ lowSelect.resetLow = false
      ∧ (lowSelect.link .a).receiver = .lowSinceReset := by decide

theorem witness_TornOperationsReadAsUsed :
    (up.setController (.busyAdvance 1)).store.controller = .busyAdvance 1
      ∧ pinning.store.controller = .busyPinWrite 3 ∧ unpinning.store.controller = .busyPinVoid 3 :=
  ⟨rfl, rfl, rfl⟩

/-- A request of no code is in service, and its response is held back. -/
def unknown : State := asking up .c 0x15 0 []

def unknownHeld : State := after (.unknownRequest .toItsResponse) unknown

theorem witness_WhatFindsNothingChangesNothing :
    State.reset.resetLow = true ∧ (lowSelect.link .a).receiver = .lowSinceReset
      ∧ (lowSelect.link .a).receiver ≠ .idle ∧ (up.link .a).receiver = .idle ∧ up.resetLow = false
      ∧ (up.link .a).receiver ≠ .lowSinceReset ∧ up.store.controller ≠ .loading
      ∧ pinning.store.controller ≠ .idle ∧ up.store.pendingAdvance = false := by decide

theorem witness_WhatFindsNothingChangesNothing_requests :
    ((fun e => .clear e, 0x45, 0, true) : (Extent → Instr) × Byte × Nat × Bool) ∈ requestForms
      ∧ (∀ l seq client p, ¬ unknown.serving l 0x45 seq client p)
      ∧ (∀ l r, ¬ unknown.holdsBack l r)
      ∧ unknownHeld.inService = some (.answering .c ⟨0x15, 0x42, .badRequest, .empty⟩)
      ∧ (asking up .a 0x45 7 []).inService = some (.request .a ⟨0x45, 0x42, 7, []⟩)
      ∧ (∃ form ∈ requestForms, form.2.1 = 0x45) := by
  refine ⟨by simp [requestForms], ?_, ?_, by decide +kernel, rfl, ?_⟩
  · intro l seq client p h
    simp [State.serving, unknown, asking] at h
  · intro l r h
    simp [State.holdsBack, unknown, asking] at h
  · simp [requestForms]

/-- Another item, or a request, in service; and another operation running. -/
theorem witness_WhatFindsNothingChangesNothing_items :
    (∀ i g, ¬ (doing up (.advance 2 .good)).servingItem (.expiry i g))
      ∧ (∀ w g, ¬ unknown.servingItem (.timeout w g))
      ∧ (∀ n x, ¬ unknown.servingItem (.load n x)) ∧ (∀ n r, ¬ unknown.servingItem (.advance n r))
      ∧ (∀ k r, ¬ unknown.servingItem (.pinWrite k r)) ∧ (∀ k r, ¬ unknown.servingItem (.pinVoid k r))
      ∧ (∀ n, pinning.store.controller ≠ .busyAdvance n)
      ∧ (∀ k, State.reset.store.controller ≠ .busyPinWrite k)
      ∧ ∀ k, pinning.store.controller ≠ .busyPinVoid k := by
  refine ⟨?_, ?_, ?_, ?_, ?_, ?_, nofun, nofun, nofun⟩ <;>
    intros <;> simp [State.servingItem, doing, unknown, asking]

theorem witness_TickStepsEveryCountdown : (onSlot3 ⟨true, 1, 5, false⟩).resetLow = false := rfl

theorem witness_ARunOutCountdownGetsItsItem :
    let s (c : Countdown) := onSlot3 c
    let c (s : State) := s.countdown (.lease 3)
    (s ⟨true, 0, 5, false⟩).resetLow = false
      ∧ (c (s ⟨true, 0, 5, false⟩)).runOut = true ∧ (c (s ⟨true, 0, 5, false⟩)).mark = false
      ∧ (c (s ⟨true, 1, 5, false⟩)).runOut = false ∧ (c (s ⟨true, 0, 5, true⟩)).mark = true := by
  decide +kernel

theorem witness_SetTickWritesTheDividerRequested (d : Word) :
    let s := asking up .a 0x44 0 (wordBytes d)
    s.loading = false ∧ s.serving .a 0x44 0x42 0 (wordBytes d) := ⟨rfl, rfl⟩

theorem witness_ClockItemsEndWhatHasRunOut :
    let s := doing (onSlot3 ⟨true, 0, 5, true⟩) (.expiry 3 5)
    let x : Lease := ⟨5, ⟨.b, 0⟩, [⟨0x0700, .shared⟩], token 1, some 1, .active⟩
    s.servingItem (.expiry 3 5) ∧ s.lease 3 = some x ∧ x.state = .active ∧ x.gen = 5
      ∧ s.leaseClock[(3 : LeaseSlot)] = ⟨true, 0, 5, true⟩
      ∧ (doing s (.expiry 3 4)).servingItem (.expiry 3 4) ∧ x.gen ≠ 4 := by
  exact ⟨rfl, rfl, rfl, rfl, by decide +kernel, rfl, by decide⟩

theorem witness_ClockItemsEndWhatHasRunOut_waits :
    let s := doing late (.timeout 0 1)
    let x : Wait := ⟨1, ⟨.a, 1⟩, setA, 400, 300⟩
    s.servingItem (.timeout 0 1) ∧ s.wait 0 = some x ∧ x.gen = 1
      ∧ s.waitClock[(0 : WaitSlot)] = ⟨true, 0, 1, true⟩
      ∧ (doing s (.timeout 0 2)).servingItem (.timeout 0 2) ∧ x.gen ≠ 2 := by
  exact ⟨rfl, by decide +kernel, rfl, by decide +kernel, rfl, by decide⟩

/-- The slots of chapter 6's example: 4 first of its tag, 8 not, 7 shown though VOID, 5 not shown, 3
blank. -/
theorem witness_TheLoadReadsTheCells :
    (damaged.pins[(4 : PinSlot)] = ⟨.complete .asWritten ⟨0x0100, ⟨.b, 7⟩⟩
        (PinData.check ⟨0x0100, ⟨.b, 7⟩⟩), .complete, .blank⟩)
      ∧ damaged.pins[(8 : PinSlot)] = damaged.pins[(4 : PinSlot)]
      ∧ damaged.pins[(7 : PinSlot)].void = .partly ∧ damaged.pins[(5 : PinSlot)].data = .partly
      ∧ damaged.pins[(3 : PinSlot)] = ⟨.blank, .blank, .blank⟩
      ∧ (∀ j : PinSlot, j < 4 → damaged.pins[j] = ⟨.blank, .blank, .blank⟩)
      ∧ up.cells.epochs = [(1, ⟨.complete, .complete⟩)] := by decide +kernel

theorem witness_StartUpLoadSetsTheStore :
    let s : State := { State.reset with resetLow := false, cells := damaged }
    s.resetLow = false ∧ s.store.controller = .loading := ⟨rfl, rfl⟩

/-- The cycle's load item, with 24 pins and the last step begun. -/
def fullLoad : List (PinSlot × PinData) :=
  (List.finRange 24).map fun k => (k, ⟨BitVec.ofNat 16 (k.val + 1), ⟨.b, 7⟩⟩)

theorem witness_LoadCompletionMakesThePins :
    let s := doing { State.reset with resetLow := false } (.load 65535 fullLoad)
    s.servingItem (.load 65535 fullLoad) ∧ s.directory = [] ∧ (∀ i, s.lease i = none)
      ∧ (∀ i : LeaseSlot, s.leaseGens[i] = 0) ∧ fullLoad.length ≤ 24
      ∧ (fullLoad.map fun p => p.2.tag).Nodup := by
  exact ⟨rfl, rfl, by decide +kernel, by decide +kernel, by decide, by decide +kernel⟩

theorem witness_StoreOperationsAppendTheirItems :
    (up.setController (.busyAdvance 1)).store.pendingAdvance = false
      ∧ (up.setController (.busyAdvance 1)).store.controller = .busyAdvance 1
      ∧ pinning.store.pendingAdvance = false ∧ pinning.store.controller = .busyPinWrite 3
      ∧ unpinning.store.pendingAdvance = false ∧ unpinning.store.controller = .busyPinVoid 3 :=
  ⟨rfl, rfl, rfl, rfl, rfl, rfl⟩

/-- With steps left and, at the end of the life of the part, with none. -/
theorem witness_APendingAdvanceStartsAtOnce :
    (∀ s ∈ [pinning, unpinning, up], (s.setPendingAdvance true).store.pendingAdvance = true)
      ∧ (pinning.setPendingAdvance true).store.controller = .busyPinWrite 3
      ∧ (unpinning.setPendingAdvance true).store.controller = .busyPinVoid 3
      ∧ (up.setPendingAdvance true).resetLow = false
      ∧ (up.setPendingAdvance true).store.controller = .idle
      ∧ pinning.store.begun < 65535
      ∧ ¬ ({ pinning.store with begun := 65535 } : Store).begun < 65535 := by decide +kernel

theorem witness_AdvanceCompletionArmsOrFaultsTheUnit (r : StepResult) :
    (doing both (.advance 2 r)).servingItem (.advance 2 r) := rfl

theorem witness_PinCompletionsSettleThePin :
    (∀ r, (doing pinning (.pinWrite 3 r)).servingItem (.pinWrite 3 r))
      ∧ pinning.pinOps = [] ++ ⟨.write, 3, 0x0B00, ⟨.c, 2⟩, 0, 4⟩ :: []
      ∧ pinning.lease 0 = some ⟨1, ⟨.c, 2⟩, [⟨0x0B00, .exclusive⟩], 0, none, .pinning⟩
      ∧ (∀ r, (doing unpinning (.pinVoid 3 r)).servingItem (.pinVoid 3 r))
      ∧ unpinning.pinOps = [] ++ ⟨.void, 3, 0x0B00, ⟨.c, 2⟩, 0, 4⟩ :: []
      ∧ unpinning.lease 0 = some ⟨1, ⟨.c, 2⟩, [⟨0x0B00, .exclusive⟩], 0, none, .unpinning⟩ := by
  exact ⟨fun _ => rfl, by decide +kernel, by decide +kernel, fun _ => rfl, rfl, by decide +kernel⟩

/-- The longest frame, good and with a CRC that differs; a window of two bytes; L of 25. -/
theorem witness_RequestWindowsAreJudged :
    let p : List Byte := List.replicate 24 7
    let head : List Byte := [0x20, 0x42, 0, BitVec.ofNat 8 p.length] ++ p
    up.resetLow = false ∧ (up.link .b).receiver = .idle ∧ (0x20 : Byte) ∉ fetchCodes
      ∧ p.length ≤ 24 ∧ frame 0x20 0 p = head ++ wordBytes (crc head) ∧ crc head ≠ 0
      ∧ (up.link .b).fifo.length < 4
      ∧ 2 ≤ ([0x20, 0x42] : List Byte).length ∧ 24 < (0x19 : Byte).toNat
      ∧ 4 ≤ (((up.setLink .b { LinkState.reset with
        fifo := List.replicate 4 ⟨0x11, 1, 0, []⟩ }).link .b).fifo).length := by decide +kernel

/-- For `ResponseFetchesPresentTheHead` and `NoticeFetchesPresentTheHead`, with an unmarked and a marked
head. -/
theorem witness_fetches :
    answering.resetLow = false ∧ (answering.link .b).receiver = .idle
      ∧ ((answering.markHead .b 0xA0).link .b).presented = true
      ∧ ((answering.markHead .b 0xA0).link .b).responses ≠ []
      ∧ noticed.resetLow = false ∧ (noticed.link .d).receiver = .idle
      ∧ ((noticed.markHead .d 0xA8).noticeQueue .d).presented = true
      ∧ ((noticed.markHead .d 0xA8).noticeQueue .d).stored ≠ [] := by decide +kernel

theorem witness_AWrongComplementIsAFrameError :
    answering.resetLow = false ∧ (answering.link .b).receiver = .idle ∧ (0x5A : Byte) ≠ 0x5F :=
  ⟨rfl, rfl, by decide⟩

/-- Two bytes of a notice's presentation have gone; the rest, and no byte more, is to come. -/
theorem witness_AnEmptyingLeavesNoMark :
    let stream := presentation (some (Notice.cleared 7).bytes)
    let s := (noticed.setReceiver .d (.presenting 0xA8 stream 2 true))
    s.resetLow = false ∧ (s.link .d).receiver = .presenting 0xA8 stream 2 true ∧ 2 < stream.length
      ∧ stream.length ≤ 2 + (List.replicate 25 (0 : Byte)).length := by decide +kernel

theorem witness_ThePreambleRefusesInItsOrder :
    (Instr.clear, (0x45 : Byte), 0, true) ∈ requestRows
      ∧ (asking State.reset .b 0x45 0 []).serving .b 0x45 0x42 0 []
      ∧ (asking State.reset .b 0x45 0 []).loading = true
      ∧ (asking up .b 0x45 0 [0]).serving .b 0x45 0x42 0 [0] ∧ up.loading = false
      ∧ (asking up .b 0x45 0 []).serving .b 0x45 0x42 0 []
      ∧ (∀ row ∈ requestRows, row.2.1 ≠ 0x15)
      ∧ (asking up .b 0x15 0 []).serving .b 0x15 0x42 0 [] :=
  ⟨by decide, rfl, rfl, rfl, rfl, rfl, by decide, rfl⟩

theorem witness_LinkConfigAndStatusServeTheirLink :
    (∀ level ∈ [1, 8], (asking up .b 0x31 0
        ([boolByte true, boolByte false] ++ natByte level ++ [boolByte true])).serving .b 0x31 0x42 0
          ([boolByte true, boolByte false] ++ natByte level ++ [boolByte true]))
      ∧ (asking up .b 0x31 0 [0, 1, 9, 0]).serving .b 0x31 0x42 0 [0, 1, 9, 0]
      ∧ ∀ option : Byte, (asking up .b 0x32 0 [option]).serving .b 0x32 0x42 0 [option] :=
  ⟨fun _ _ => rfl, rfl, fun _ => rfl⟩

theorem witness_CapsReportsThePart :
    (asking up .c 0x33 0 []).loading = false ∧ (asking up .c 0x33 0 []).serving .c 0x33 0x42 0 [] :=
  ⟨rfl, rfl⟩

theorem witness_AcquireParametersAreChecked :
    (acquirePayload 5 0 setA (List.replicate 6 0)).length = 17
      ∧ (5 : Word) ≠ 0 ∧ setA ≠ [] ∧ setA.length ≤ 4 ∧ (tagsOf setA).Nodup ∧ 0 ∉ tagsOf setA
      ∧ (List.replicate 6 (0 : Byte)).length = 3 * (4 - setA.length) := by decide

/-- A request of A/1 for Wa's tags. -/
def asksA (s : State) (limit : Word) (set : List Entry) : State :=
  asking s .a 0x10 1 (acquirePayload 400 limit set (List.replicate (3 * (4 - set.length)) 0))

/-- Every branch of the order: malformed; FAULT and EXHAUSTED; pinned and unpinning; pinning; an owner of
its own; a full directory; a conflict; a full lease table; a unit not READY; a full wait table; a full
notice queue. -/
theorem witness_AcquireRefusesInItsOrder :
    let s (t : State) := asksA t 0 [⟨0x0B00, .shared⟩]
    let p := acquirePayload 400 0 [⟨0x0B00, .shared⟩] (List.replicate 9 0)
    (s up).loading = false ∧ (s up).inService = some (.request .a ⟨0x10, 0x42, 1, p⟩)
      ∧ p.length = 17 ∧ acquireRequest? p = some ⟨400, 0, [] ++ ⟨0x0B00, .shared⟩ :: []⟩
      ∧ (pinned.view 0x0B00).pin = .pinned 3 ∧ (unpinning.view 0x0B00).pin = .unpinning 3
      ∧ (pinning.view 0x0B00).pin = .pinning 3
      ∧ pinned.tokens.state = .ready ∧ pinning.tokens.state = .ready
      ∧ both.view 0x0500 = ⟨0x0500, [⟨0, .exclusive⟩], [0], token 3, .unpinned⟩
      ∧ (both.wait 0).map Wait.owner = some ⟨.a, 1⟩ ∧ (both.lease 0).map Lease.owner = some ⟨.b, 2⟩
      ∧ both.directory.length = 2
      ∧ up.view 0x0500 = ⟨0x0500, [], [], 0, .unpinned⟩
      ∧ ({ up with tokens := .reset } : State).tokens.state = .unarmed
      ∧ ({ up with waits := Vector.replicate 128 (both.wait 0) } : State).freeWait? = none
      ∧ ({ up with leases := Vector.replicate 256 (held.lease 0) } : State).freeLease? = none
      ∧ 32 ≤ ((up.setNotices .a { NoticeQueue.reset with reserved := 32 }).noticeQueue
        .a).stored.length
          + ((up.setNotices .a { NoticeQueue.reset with reserved := 32 }).noticeQueue .a).reserved := by
  decide +kernel

/-- The unit's last token of all is next, and an earlier one. -/
theorem witness_AcquireGrantsAtOnce :
    let set : List Entry := [⟨0x0500, .exclusive⟩]
    let s (serial : BitVec 24) (epoch : BitVec 16) : State :=
      asksA { up with tokens := ⟨.ready, epoch, serial⟩ } 0 set
    (∀ e n, (s n e).loading = false ∧ (s n e).tokens.state = .ready
      ∧ (s n e).serving .a 0x10 0x42 1 (acquirePayload 400 0 set (List.replicate 9 0)))
      ∧ (∀ e ∈ set, (up.view e.tag).pin = .unpinned ∧ up.ownsOn ⟨.a, 1⟩ e.tag = false
        ∧ (up.view e.tag).queue = [] ∧ (up.view e.tag).admits e.mode = true)
      ∧ (set.countP fun e => (up.record? e.tag).isNone) ≤ 256 - up.directory.length
      ∧ up.lease 0 = none := by
  exact ⟨fun _ _ => ⟨rfl, rfl, rfl⟩, by decide +kernel, by decide +kernel, by decide +kernel⟩

/-- Compatibility, the queue and the unit each hold a request back; with a limit counted and none. -/
theorem witness_AcquireQueuesAWait :
    (∀ lim : Word, (asksA held lim setA).serving .a 0x10 0x42 1
        (acquirePayload 400 lim setA (List.replicate 6 0)) ∧ (asksA held lim setA).loading = false)
      ∧ held.tokens.state = .ready
      ∧ (∀ e ∈ setA, (held.view e.tag).pin = .unpinned ∧ held.ownsOn ⟨.a, 1⟩ e.tag = false)
      ∧ (setA.countP fun e => (held.record? e.tag).isNone) ≤ 256 - held.directory.length
      ∧ (setA.all fun e =>
        (held.view e.tag).admits e.mode && (held.view e.tag).queue.isEmpty) = false
      ∧ held.wait 0 = none
      ∧ (held.noticeQueue .a).stored.length + (held.noticeQueue .a).reserved < 32
      ∧ ({ up with tokens := .reset } : State).tokens.state ≠ .ready := by
  exact ⟨fun _ => ⟨rfl, rfl⟩, by decide +kernel, by decide +kernel, by decide +kernel,
    by decide +kernel, by decide +kernel, by decide +kernel, by decide⟩

/-- B/2's lease in `held`. -/
def leaseL0 : Lease := ⟨1, ⟨.b, 2⟩, [⟨0x0500, .exclusive⟩], token 3, some 500, .active⟩

theorem witness_RenewReloadsTheCountdown (d : Word) :
    let p := handleBytes ⟨0, 1⟩ ++ tokenBytes (token 3) ++ wordBytes d
    let s := asking held .b 0x11 2 p
    s.loading = false ∧ s.serving .b 0x11 0x42 2 p ∧ s.lease 0 = some leaseL0 := by
  exact ⟨rfl, rfl, show held.lease 0 = some leaseL0 by decide +kernel⟩

theorem witness_ReleaseRemovesAndDowngradeShares (code : Byte) :
    let p := handleBytes ⟨0, 1⟩ ++ tokenBytes (token 3)
    let s := asking held .b code 2 p
    s.loading = false ∧ s.lease 0 = some leaseL0 ∧ leaseL0.owner = ⟨.b, 2⟩
      ∧ leaseL0.state = .active ∧ s.serving .b code 0x42 2 p := by
  exact ⟨rfl, show held.lease 0 = some leaseL0 by decide +kernel, rfl, rfl, rfl⟩

/-- Another owner's lease, an empty slot, and a lease born of a pin. -/
theorem witness_StaleOrPinnedChangesNothing :
    let p := handleBytes ⟨0, 1⟩ ++ tokenBytes (token 3) ++ []
    (asking held .c 0x12 2 p).loading = false
      ∧ (asking held .c 0x12 2 p).serving .c 0x12 0x42 2 p
      ∧ held.lease 0 = some leaseL0 ∧ leaseL0.owner ≠ ⟨.c, 2⟩ ∧ up.lease 0 = none
      ∧ (asking pinned .c 0x12 2 (handleBytes ⟨0, 1⟩ ++ tokenBytes 0 ++ [])).serving .c 0x12 0x42 2
        (handleBytes ⟨0, 1⟩ ++ tokenBytes 0 ++ [])
      ∧ pinned.lease 0 = some ⟨1, ⟨.c, 2⟩, [⟨0x0B00, .exclusive⟩], 0, none, .pinned⟩ := by
  exact ⟨rfl, rfl, by decide +kernel, by decide, rfl, rfl, by decide +kernel⟩

/-- One's own wait; another's; a slot above 127. -/
theorem witness_CancelRemovesOnesOwnWait :
    let s := asking both .a 0x14 1 (waitIdBytes ⟨0, 1⟩)
    s.loading = false ∧ s.serving .a 0x14 0x42 1 (waitIdBytes ⟨0, 1⟩)
      ∧ both.wait 0 = some ⟨1, ⟨.a, 1⟩, setA, 400, 300⟩
      ∧ (asking both .a 0x14 1 [1, 1]).serving .a 0x14 0x42 1 [1, 1]
      ∧ both.wait 1 = some ⟨1, ⟨.c, 3⟩, [⟨0x0501, .shared⟩], 100, 300⟩
      ∧ (asking both .a 0x14 1 [128, 1]).serving .a 0x14 0x42 1 [128, 1] := by
  exact ⟨rfl, rfl, by decide +kernel, rfl, by decide +kernel, rfl⟩

/-- For `QueryAndCheckReadTheRecord` and `ListWalksTheLinksEntries`: `both` holds leases and waits, and every
tag, token and cursor can be asked. -/
theorem witness_readings (p : List Byte) (code : Byte) (l : Link) :
    (asking both l code 0 p).loading = false ∧ (asking both l code 0 p).serving l code 0x42 0 p :=
  ⟨rfl, rfl⟩

theorem witness_PinTableReadsAPage (b : Byte) :
    (asking pinned .d 0x34 0 [b]).loading = false
      ∧ (asking pinned .d 0x34 0 [b]).serving .d 0x34 0x42 0 [b]
      ∧ (23 : Byte).toNat < 24 ∧ 24 ≤ (24 : Byte).toNat := ⟨rfl, rfl, by decide, by decide⟩

/-- Every branch: a bad link, a tag with a record, no BLANK slot, a busy store, and the acceptance. -/
theorem witness_PinIsJudgedAndAccepted :
    let p := wordBytes 0x0B00 ++ [0x02, 2]
    (asking spent .a 0x40 4 p).loading = false ∧ (asking spent .a 0x40 4 p).serving .a 0x40 0x42 4 p
      ∧ 3 < (4 : Byte).toNat ∧ (0x02 : Byte) = Link.byte .c ∧ pinned.record? 0x0B00 ≠ none
      ∧ spent.record? 0x0B00 = none
      ∧ ({ up.store with slots := Vector.replicate 24 ⟨.void, pinData, true⟩ } : Store).slots.all
        (fun x => x.state != .blank) = true
      ∧ spent.store.slots[(3 : PinSlot)].state = .blank
      ∧ (∀ j < (3 : PinSlot), spent.store.slots[j].state ≠ .blank)
      ∧ spent.store.controller = .idle ∧ spent.store.pendingAdvance = false
      ∧ (spent.setPendingAdvance true).store.pendingAdvance = true
      ∧ spent.directory.length < 256 ∧ spent.lease 0 = none
      ∧ (spent.noticeQueue .a).stored.length + (spent.noticeQueue .a).reserved < 32 := by
  exact ⟨rfl, rfl, by decide, rfl, by decide +kernel, rfl, by decide +kernel, by decide +kernel,
    by decide +kernel, rfl, rfl, rfl, by decide, by decide +kernel, by decide⟩

theorem witness_UnpinIsJudgedAndAccepted :
    let s := asking pinned .a 0x41 4 [3]
    s.loading = false ∧ s.serving .a 0x41 0x42 4 [3]
      ∧ pinned.store.slots[(3 : PinSlot)].state = .active
      ∧ pinned.directory = [⟨0x0B00, [⟨0, .exclusive⟩], [], 0, .pinned 3⟩]
      ∧ pinned.lease 0 = some ⟨1, ⟨.c, 2⟩, [⟨0x0B00, .exclusive⟩], 0, none, .pinned⟩
      ∧ pinned.store.controller = .idle ∧ pinned.store.pendingAdvance = false
      ∧ (pinned.noticeQueue .a).stored.length + (pinned.noticeQueue .a).reserved < 32
      ∧ (∀ r ∈ pinning.directory, r.pin ≠ .pinned 3) := by
  exact ⟨rfl, rfl, by decide +kernel, by decide +kernel, by decide +kernel, rfl, by decide +kernel,
    by decide +kernel, by decide +kernel⟩

/-- For `RevokeRemovesTheActiveHolders` and `DetachesRemoveTheirOwners`. -/
theorem witness_administration (p : List Byte) (code : Byte) :
    (asking both .a code 7 p).loading = false ∧ (asking both .a code 7 p).serving .a code 0x42 7 p :=
  ⟨rfl, rfl⟩

theorem forLinks {p : Link → Prop} (h : p .a ∧ p .b ∧ p .c ∧ p .d) : ∀ l, p l
  | .a => h.1
  | .b => h.2.1
  | .c => h.2.2.1
  | .d => h.2.2.2

theorem both_lists : CreationLists both := ⟨by decide +kernel, by decide +kernel⟩

/-- CLEAR with nothing in flight, and with a pin write running. -/
theorem witness_ClearLeavesThePinsAlone :
    (asking both .a 0x45 7 []).loading = false ∧ (asking both .a 0x45 7 []).serving .a 0x45 0x42 7 []
      ∧ CreationLists (asking both .a 0x45 7 []) ∧ both.pinOps = []
      ∧ CreationLists (asking pinning .a 0x45 7 []) ∧ pinning.pinOps ≠ [] := by
  exact ⟨rfl, rfl, ⟨both_lists.nodup, both_lists.live⟩, rfl, ⟨by decide +kernel, by decide +kernel⟩,
    by decide +kernel⟩

theorem witness_RemovalFreesTheSlot :
    both.lease 0 = some leaseL0 ∧ both.wait 0 = some ⟨1, ⟨.a, 1⟩, setA, 400, 300⟩
      ∧ (both.directory.map Record.tag).Pairwise (· < ·) := by decide +kernel

theorem witness_JoiningReachesTheTagsOfTheSet :
    both.sorted ∧ (tagsOf setA).Nodup ∧ (0x0700 : Tag) ∉ tagsOf setA :=
  ⟨show (both.directory.map Record.tag).Pairwise (· < ·) by decide +kernel, by decide, by decide⟩

theorem witness_AGrantTurnsTheWaitIntoALease :
    both.wait 1 = some ⟨1, ⟨.c, 3⟩, [⟨0x0501, .shared⟩], 100, 300⟩ := by decide +kernel

theorem witness_TokensAreIssuedAndDemanded :
    let s : State := { up with tokens := .reset }
    s.tokens.state = .unarmed ∧ s.store.controller = .idle ∧ s.store.begun < 65535
      ∧ { pinning with tokens := .reset }.tokens.state = .unarmed
      ∧ pinning.store.controller = .busyPinWrite 3 ∧ unpinning.store.controller = .busyPinVoid 3
      ∧ up.tokens.state ≠ .unarmed := by decide

/-! ### Witnesses for the laws: `busy` meets each of them and steps -/

theorem busy_steps : step busy = .next (after (.pinWrite .good .good .good)
    { busy with pending := [] }) := rfl

theorem busy_lists : CreationLists busy := ⟨by decide +kernel, by decide +kernel⟩

theorem witness_EveryStepKeepsTheLinkLaw : LinkLaw busy where
  fifo := forLinks (by decide +kernel)
  responses := forLinks (by decide +kernel)
  room := nofun
  held _ _ h := by simp [State.holdsBack, show busy.inService = none from rfl] at h
  settled _ src := by
    have h : ∀ x ∈ Source.internal.cycleAfter, busy.eligible x = false := by decide +kernel
    exact h src (by rcases src with _ | l <;> [decide; (cases l <;> decide)])
  sizes := forLinks (by decide +kernel)

/-- The states of `StatusReadAndAttentionShowTheirConditions`: `busy` is idle, and a link can be at each
point of a window. -/
theorem witness_StatusReadAndAttentionShowTheirConditions :
    busy.resetLow = false ∧ (busy.link .a).receiver = .idle ∧ LinkLaw busy
      ∧ ∀ r, ((up.setReceiver .a r).link .a).receiver = r ∧ (up.setReceiver .a r).resetLow = false :=
  ⟨rfl, rfl, witness_EveryStepKeepsTheLinkLaw, fun _ => ⟨rfl, rfl⟩⟩

theorem witness_EveryStepKeepsTheNoticeLaw : NoticeLaw busy where
  lists := busy_lists
  reserved := forLinks (by decide +kernel)
  room := forLinks (by decide +kernel)

theorem both_queues (s : State) (hd : s.directory = both.directory)
    (hc : s.creation = both.creation) (hw : s.waits = both.waits) (hl : CreationLists s) :
    QueueLaw s where
  sorted := show (s.directory.map Record.tag).Pairwise (· < ·) by rw [hd]; decide +kernel
  lists := hl
  queues := by
    have h : ∀ r ∈ both.directory, r.queue = both.creation.filter (both.asksFor r.tag) := by
      decide +kernel
    intro r hr
    rw [h r (hd ▸ hr), hc, show s.asksFor r.tag = both.asksFor r.tag by
      funext w; simp [State.asksFor, State.wait, hw]]
  records w x h tag ht := by
    have h' : ∀ w, ∀ x ∈ both.wait w,
        ((tagsOf x.set).all fun tag => (both.record? tag).isSome) = true := by decide +kernel
    have := List.all_eq_true.1 (h' w x (by simpa [State.wait, hw] using h)) tag ht
    simpa [State.record?, hd] using this

theorem witness_EveryStepKeepsTheQueueLaw : QueueLaw busy where
  sorted := show (busy.directory.map Record.tag).Pairwise (· < ·) by decide +kernel
  lists := busy_lists
  queues := by decide +kernel
  records w x h := List.all_eq_true.1 ((show ∀ w, ∀ x ∈ busy.wait w,
    ((tagsOf x.set).all fun tag => (busy.record? tag).isSome) = true by decide +kernel) w x h)

/-- The waits that CLEAR removes stand in the queues as Law 5 has them. -/
theorem witness_ClearLeavesThePinsAlone_queues : QueueLaw (asking both .a 0x45 7 []) :=
  both_queues _ rfl rfl rfl ⟨both_lists.nodup, both_lists.live⟩

/-- `AnAbortEndsEveryWait` and `APassLeavesNoGrantableWait` take the queue law; two waits stand. -/
theorem witness_AnAbortEndsEveryWait : QueueLaw busy ∧ busy.creation = [0, 1] :=
  ⟨witness_EveryStepKeepsTheQueueLaw, by decide +kernel⟩

theorem witness_APassLeavesNoGrantableWait :
    QueueLaw busy ∧ busy.promotionPass.creation = [0, 1]
      ∧ busy.promotionPass.wait 0 = some ⟨1, ⟨.a, 1⟩, setA, 400, 300⟩ :=
  ⟨witness_EveryStepKeepsTheQueueLaw, by decide +kernel, by decide +kernel⟩

/-- The steps of the scan: in `both`, Wa is not compatible and Wb not first; with the holders gone Wa stands
first and compatible, and may find a free slot or none, a unit READY, not READY, or at its last token. -/
theorem witness_APassLeavesNoGrantableWait_scan :
    let s := (both.removeLease 0).removeLease 1
    both.wait 0 = some ⟨1, ⟨.a, 1⟩, setA, 400, 300⟩ ∧ both.wait 2 = none
      ∧ (both.view 0x0500).queue = [0] ∧ (both.view 0x0500).holders = [⟨0, .exclusive⟩]
      ∧ both.wait 1 = some ⟨1, ⟨.c, 3⟩, [⟨0x0501, .shared⟩], 100, 300⟩
      ∧ (both.view 0x0501).queue = [0, 1]
      ∧ s.wait 0 = some ⟨1, ⟨.a, 1⟩, setA, 400, 300⟩
      ∧ (∀ e ∈ setA, (s.view e.tag).queue.head? = some 0 ∧ (s.view e.tag).holders = [])
      ∧ s.lease 0 = none ∧ s.tokens.state = .ready ∧ s.tokens.serial ≠ 16777215
      ∧ (∀ i, ({ s with leases := Vector.replicate 256 (held.lease 0) } : State).lease i ≠ none)
      ∧ ({ s with tokens := .reset } : State).tokens.state ≠ .ready
      ∧ ({ s with tokens := ⟨.ready, 65535, 16777215⟩ } : State).tokens.serial = 16777215 := by
  decide +kernel

theorem busy_load : LoadLaw busy where
  once := by decide +kernel
  reading := nofun
  waiting h := absurd h (by decide +kernel)
  calm := nofun

theorem witness_EveryStepKeepsTheEndedUnitLaw : EndedUnitLaw busy where
  lists := busy_lists
  load := busy_load
  empty := by decide +kernel

theorem witness_EveryStepKeepsTheTokenLaw : TokenLaw busy where
  load := busy_load
  once := by decide +kernel
  asked := by decide +kernel
  serial := by decide +kernel
  ready := by decide +kernel
  epoch := by decide +kernel
  steps n h := by
    rcases h with h | h
    · exact nomatch h
    · exact absurd h (by simp [State.items, show busy.workList = [] from rfl,
        show busy.inService = none from rfl])
  counted _ := by decide +kernel
  below i x h := (show ∀ i, ∀ x ∈ busy.lease i, x.state = .active →
    x.token ≠ 0 ∧ x.token.toNat < busy.tokens.bound by decide +kernel) i x h
  distinct i j x y hx hy := by
    have h : ∀ i, ∀ x ∈ busy.lease i, x.state = .active →
        x.token = token (3 + BitVec.ofNat 24 i.val) ∧ i.val < 2 := by decide +kernel
    intro ax ay e
    have h1 := h i x hx ax
    have h2 := h j y hy ay
    rw [h1.1, h2.1] at e
    have h3 : ∀ a < 2, ∀ b < 2, token (3 + BitVec.ofNat 24 a) = token (3 + BitVec.ofNat 24 b) →
      a = b := by decide
    exact Fin.ext (h3 _ h1.2 _ h2.2 e)

/-- A step that is no reset and makes an ACTIVE lease with a new token. -/
def granting : State := { asksA up 0 [⟨0x0500, .exclusive⟩] with pending := [.acquire] }

theorem granting_free (i : LeaseSlot) : granting.lease i = none := by
  simp [granting, asksA, asking, up, State.reset, State.lease]

theorem witness_EveryStepKeepsTheTokenLaw_grants : TokenLaw granting
    ∧ (∀ tear rest, granting.pending ≠ .deviceReset tear :: rest)
    ∧ step granting = .next (after .acquire { granting with pending := [] })
    ∧ (after .acquire { granting with pending := [] }).lease 0
      = some ⟨1, ⟨.a, 1⟩, [⟨0x0500, .exclusive⟩], token 1, some 400, .active⟩ := by
  refine ⟨⟨⟨by decide +kernel, nofun, fun h => absurd h (by decide +kernel), nofun⟩,
    by decide +kernel, by decide +kernel, by decide +kernel, by decide +kernel, by decide +kernel,
    ?_, fun _ => by decide +kernel, ?_, ?_⟩, nofun, rfl, by decide +kernel⟩
  · intro n h
    rcases h with h | h
    · exact nomatch h
    · exact absurd h (by simp [State.items, granting, asksA, asking, up, State.reset])
  · intro i x h; simp [granting_free] at h
  · intro i j x y h; simp [granting_free] at h

/-- The begun count of `BegunStepsAreNeverTakenAgain` and a demand that starts an advance. -/
theorem witness_BegunStepsAreNeverTakenAgain :
    let s := asksA { up with tokens := .reset } 0 [⟨0x0500, .exclusive⟩]
    exec .acquire s = .next (after .acquire s) ∧ s.store.begun = s.cells.begunCount
      ∧ (after .acquire s).store.controller = .busyAdvance 2 ∧ s.store.controller ≠ .busyAdvance 2 :=
  ⟨rfl, by decide +kernel, by decide +kernel, by decide⟩

/-- Nothing of the clock has run out in `busy`, and no mark is set. -/
theorem busy_clock (n : CountdownName) :
    (!(busy.countdown n).runOut && !(busy.countdown n).mark) = true := by
  cases n with
  | lease i =>
    exact Vector.all_eq_true.1 (show busy.leaseClock.all (fun c => !c.runOut && !c.mark) by
      decide +kernel) i i.2
  | wait w =>
    exact Vector.all_eq_true.1 (show busy.waitClock.all (fun c => !c.runOut && !c.mark) by
      decide +kernel) w w.2

theorem witness_EveryStepKeepsTheClockLaw : ClockLaw busy where
  marks n := by
    have h : busy.items = [] := rfl
    rw [h, show (busy.countdown n).mark = false by
      simpa using (Bool.and_eq_true_iff.1 (busy_clock n)).2]
    rfl
  ended n h := by
    have h' : (busy.countdown n).runOut = false := by
      simpa using (Bool.and_eq_true_iff.1 (busy_clock n)).1
    exact absurd (h'.symm.trans h) nofun
  leases i x h a := by
    have h' : ∀ i, ∀ x ∈ busy.lease i, x.state = .active → x.duration = some 500 := by decide +kernel
    exact ⟨500, h' i x h a, by decide⟩
  waits w x h := (show ∀ w, ∀ x ∈ busy.wait w, x.duration ≠ 0 ∧ x.limit ≠ 0 by decide +kernel) w x h

theorem witness_EveryStepKeepsTheCanonicalForms : CanonicalForms busy where
  sorted := show (busy.directory.map Record.tag).Pairwise (· < ·) by decide +kernel
  inUse := by decide +kernel
  epochs := by decide +kernel
  marks := by decide +kernel

theorem witness_EveryStepKeepsTheHolderLaw : HolderLaw busy where
  load := busy_load
  empty := nofun
  loaded := by
    intro _ _ h
    exact absurd h (by simp [State.items, show busy.workList = [] from rfl,
      show busy.inService = none from rfl])
  sorted := show (busy.directory.map Record.tag).Pairwise (· < ·) by decide +kernel
  phases := by decide +kernel
  apart := by decide +kernel
  once := by decide +kernel
  writes := by decide +kernel
  voids := by decide +kernel
  named := by decide +kernel
  spent := by decide +kernel
  queues := by decide +kernel
  settling := by decide +kernel
  sets w x h := (show ∀ w, ∀ x ∈ busy.wait w, (tagsOf x.set).Nodup by decide +kernel) w x h
  exclusive := by decide +kernel

/-- Every row takes the request of its code; the response of one is held back, with a code and without. -/
theorem witness_AResponseEndsItsItem :
    servesCode (fun e => .cancel e) 0x14 ∧ servesCode (fun e => .unknownRequest e) 0x15
      ∧ (asking both .a 0x14 1 [0, 1]).serving .a 0x14 0x42 1 [0, 1]
      ∧ unknown.serving .c 0x15 0x42 0 []
      ∧ (after (.cancel .toItsResponse) (asking both .a 0x14 1 [0, 1])).inService
        = some (.answering .a ⟨0x14, 0x42, .done, .empty⟩)
      ∧ unknownHeld.inService = some (.answering .c ⟨0x15, 0x42, .badRequest, .empty⟩) :=
  ⟨.inl ⟨(fun e => .cancel e, 0x14, 2, false), by simp [requestForms], rfl, rfl⟩,
    .inr ⟨rfl, by simp [requestForms]⟩, rfl, rfl, by decide +kernel, by decide +kernel⟩

end Sys2Proof.Tests
end

section
/-! PROOFS. What a request row leaves when the engine has taken a frame that the preamble passes. -/

namespace Sys2Proof.Machine

/-- A frame of the row's code that the preamble passes is answered by the request's own rule (R145, R153,
R155). -/
theorem State.serveRequest_of_serving {s : State} {l : Link} {code seq : Byte} {client : Client}
    {p : List Byte} (rule : RequestRule) (taken : s.serving l code seq client p)
    (loaded : s.loading = false) (length : payloadLength? code = some p.length)
    (admin : adminCodes.contains code = true → l = .a) :
    s.serveRequest code rule .toItsEnd =
      (rule s ⟨l, client⟩ p).1.replies l code seq
        (rule s ⟨l, client⟩ p).2.outcome (rule s ⟨l, client⟩ p).2.payload := by
  have inService : s.inService = some (.request l ⟨code, seq, client, p⟩) := taken
  have passes : s.preamble l ⟨code, seq, client, p⟩ = none :=
    State.preamble_eq_none loaded length admin
  simp only [State.serveRequest_eq, inService, if_true, State.answerRequest_toItsEnd,
    State.judge_of_pass passes]
  rfl

end Sys2Proof.Machine
end

section
/-! PROOFS. QUERY and CHECK (R13 to R15, R97): their readings of a record, in the terms of the rules. -/

namespace Sys2Proof.Machine

/-! ### The readings -/

/-- R13, for a tag without a pin. -/
theorem Record.reported_of_unpinned {r : Record} (unpinned : r.pin = .unpinned) :
    r.reported =
      if r.holders = [] then .free
      else if ∃ h ∈ r.holders, h.mode = .exclusive then .exclusive else .shared := by
  simp only [Record.reported, unpinned, List.isEmpty_iff, List.any_eq_true, beq_iff_eq]

/-- R15: a holder's remaining ticks are its lease's countdown, shown while the lease is ACTIVE. -/
theorem State.holderView?_eq (s : State) :
    s.holderView? = fun h => (s.lease h.slot).map fun x =>
      ⟨x.owner, h.mode, if x.state = .active then some s.leaseClock[h.slot].value else none⟩ := rfl

/-- R97: a token is current when an ACTIVE holder of the tag carries it. -/
theorem State.tokenCurrent_iff (s : State) (tag : Tag) (token : Token) :
    s.tokenCurrent tag token = true ↔
      ∃ h ∈ (s.view tag).holders, ∃ x, s.lease h.slot = some x ∧ x.state = .active
        ∧ x.token = token := by
  simp only [State.tokenCurrent, List.any_eq_true, Option.any_eq_true, Bool.and_eq_true, beq_iff_eq]

/-! ### The rules on the payloads of their requests -/

/-- R14: the rule of QUERY on the tag its payload names. -/
theorem ruleQuery_wordBytes (s : State) (o : Owner) (tag : Tag) :
    ruleQuery s o (wordBytes tag) =
      (s, if tag = 0 then .plain .badParam else .done (.query (s.queryResult tag))) := by
  have field : wordAt (wordBytes tag) 0 = tag := by simpa using wordAt_wordBytes tag []
  simp only [ruleQuery, field]
  split <;> rfl

/-- R97: the rule of CHECK on the tag and the token its payload names. -/
theorem ruleCheck_wordBytes_tokenBytes (s : State) (o : Owner) (tag : Tag) (token : Token) :
    ruleCheck s o (wordBytes tag ++ tokenBytes token) =
      (s, if tag = 0 then .plain .badParam
        else .done (.check (s.tokenCurrent tag token) (s.view tag).lastToken)) := by
  have tokenField : tokenAt (wordBytes tag ++ tokenBytes token) 2 = token := by
    rw [tokenAt_append_right (by simp)]
    simpa using tokenAt_tokenBytes token []
  simp only [ruleCheck, wordAt_wordBytes, tokenField]
  split <;> rfl

/-! ### The rows -/

/-- R14: QUERY on a frame the engine has taken. -/
theorem exec_query_of_serving {s : State} {l : Link} {seq : Byte} {client : Client} {tag : Tag}
    (taken : s.serving l 0x20 seq client (wordBytes tag)) (loaded : s.loading = false) :
    exec .query s = .next
      (if tag = 0 then s.replies l 0x20 seq .badParam .empty
      else s.replies l 0x20 seq .done (.query (s.queryResult tag))) := by
  have served : exec .query s = .next (s.serveRequest 0x20 ruleQuery .toItsEnd) := rfl
  rw [served, State.serveRequest_of_serving ruleQuery taken loaded rfl nofun, ruleQuery_wordBytes]
  split <;> rfl

/-- R97: CHECK on a frame the engine has taken. -/
theorem exec_check_of_serving {s : State} {l : Link} {seq : Byte} {client : Client} {tag : Tag}
    {token : Token} (taken : s.serving l 0x21 seq client (wordBytes tag ++ tokenBytes token))
    (loaded : s.loading = false) :
    exec .check s = .next
      (if tag = 0 then s.replies l 0x21 seq .badParam .empty
      else s.replies l 0x21 seq .done
        (.check (s.tokenCurrent tag token) (s.view tag).lastToken)) := by
  have served : exec .check s = .next (s.serveRequest 0x21 ruleCheck .toItsEnd) := rfl
  rw [served, State.serveRequest_of_serving ruleCheck taken loaded rfl nofun,
    ruleCheck_wordBytes_tokenBytes]
  split <;> rfl

/-- Settles O36: each row answers its reading of the record, and the readings are those of the rules. -/
theorem queryAndCheckReadTheRecord : Obligations.QueryAndCheckReadTheRecord := by
  intro s l seq client tag token loaded r state
  have reported : r.reported = state := by
    cases pin : r.pin with
    | unpinned => simp only [Record.reported_of_unpinned pin, state, pin]
    | pinning | pinned | unpinning => simp only [Record.reported, state, pin]
  refine ⟨fun taken => ?query, fun taken => ?check⟩
  case query =>
    rw [exec_query_of_serving taken loaded]
    simp only [State.queryResult, State.headWaiter?, State.holderView?_eq, ← reported, r]
  case check =>
    simp only [exec_check_of_serving taken loaded, ← State.tokenCurrent_iff, r, Bool.decide_eq_true]

end Sys2Proof.Machine
end

section
/-! PROOFS. RENEW, RELEASE and DOWNGRADE: the judgement of R20, and what R31, R33 and R36 make of one's own
ACTIVE lease. -/

namespace Sys2Proof.Machine

/-! ### The judgement of R20 -/

/-- The handle of a payload that spells a handle and a token (R186, R188). -/
theorem handleAt_leasePayload (h : LeaseHandle) (t : Token) (more : List Byte) :
    handleAt (handleBytes h ++ tokenBytes t ++ more) 0 = h := by
  rw [List.append_assoc, handleAt_handleBytes]

/-- The token of such a payload, behind the handle (R186, R188). -/
theorem tokenAt_leasePayload (h : LeaseHandle) (t : Token) (more : List Byte) :
    tokenAt (handleBytes h ++ tokenBytes t ++ more) 2 = t := by
  rw [List.append_assoc, tokenAt_append_right (by simp)]
  exact tokenAt_tokenBytes t more

/-- A slot that is free, or whose lease differs in one of the three, is STALE (R20). -/
theorem State.judgeLease_stale {s : State} {o : Owner} {h : LeaseHandle} {t : Token}
    (more : List Byte)
    (other : ∀ x, s.lease h.slot = some x → x.gen ≠ h.gen ∨ x.token ≠ t ∨ x.owner ≠ o) :
    s.judgeLease o (handleBytes h ++ tokenBytes t ++ more) = .error .stale := by
  simp only [State.judgeLease, handleAt_leasePayload, tokenAt_leasePayload]
  cases held : s.lease h.slot with
  | none => rfl
  | some x =>
    exact if_neg fun ⟨gen, token, owner⟩ =>
      (other x held).elim (· gen) (·.elim (· token) (· owner))

/-- The lease named, when it is not ACTIVE, is PINNED (R20). -/
theorem State.judgeLease_pinned {s : State} {o : Owner} {h : LeaseHandle} {t : Token} {x : Lease}
    (more : List Byte) (held : s.lease h.slot = some x) (gen : x.gen = h.gen) (token : x.token = t)
    (owner : x.owner = o) (state : x.state ≠ .active) :
    s.judgeLease o (handleBytes h ++ tokenBytes t ++ more) = .error .pinned := by
  simp only [State.judgeLease, handleAt_leasePayload, tokenAt_leasePayload, held, gen, token, owner,
    state, and_self, if_true, if_false]

/-! ### The three rows -/

/-- The rows that begin with the judgement of R20: the command, its request code, the bytes of its payload
behind handle and token, and its rule (R31, R33, R36, R188). -/
inductive LeaseRow : Instr → Byte → Nat → RequestRule → Prop where
  | renew : LeaseRow .renew 0x11 2 ruleRenew
  | release : LeaseRow .release 0x12 0 ruleRelease
  | downgrade : LeaseRow .downgrade 0x13 0 ruleDowngrade

/-- Each of the rows answers the refusal of R20 as it is, and changes nothing. -/
theorem LeaseRow.rule_of_error {c : Instr} {code : Byte} {n : Nat} {rule : RequestRule}
    (row : LeaseRow c code n rule) {s : State} {o : Owner} {p : List Byte} {e : OutcomeCode}
    (refused : s.judgeLease o p = .error e) : rule s o p = (s, .plain e) := by
  cases row with
  | renew => simp only [ruleRenew, refused]
  | release => simp only [ruleRelease, refused]
  | downgrade => simp only [ruleDowngrade, refused]

/-- One of the rows on a frame the engine has taken is answered by its rule. -/
theorem LeaseRow.exec_of_serving {c : Instr} {code : Byte} {n : Nat} {rule : RequestRule}
    (row : LeaseRow c code n rule) {s : State} {l : Link} {seq : Byte} {client : Client}
    {h : LeaseHandle} {t : Token} {more : List Byte} (loaded : s.loading = false)
    (taken : s.serving l code seq client (handleBytes h ++ tokenBytes t ++ more))
    (length : more.length = n) :
    let r := rule s ⟨l, client⟩ (handleBytes h ++ tokenBytes t ++ more)
    exec c s = .next (r.1.replies l code seq r.2.outcome r.2.payload) := by
  have served : exec c s = .next (s.serveRequest code rule .toItsEnd) := by cases row <;> rfl
  have accepted : payloadLength? code = some (handleBytes h ++ tokenBytes t ++ more).length := by
    simp only [List.length_append, handleBytes_length, tokenBytes_length, length]
    cases row <;> rfl
  have open_to_all : adminCodes.contains code = true → l = .a := by cases row <;> nofun
  rw [served, State.serveRequest_of_serving rule taken loaded accepted open_to_all]

/-- Settles O34: the judgement refuses, and each of the rows hands its refusal on. -/
theorem staleOrPinnedChangesNothing : Obligations.StaleOrPinnedChangesNothing := by
  intro s l seq client h t more c code loaded taken named
  obtain ⟨rule, row⟩ : ∃ rule, LeaseRow c code more.length rule := by
    simp only [Prod.mk.injEq] at named
    rcases named with ⟨rfl, rfl, length⟩ | ⟨rfl, rfl, length⟩ | ⟨rfl, rfl, length⟩ <;> rw [length]
    · exact ⟨_, .renew⟩
    · exact ⟨_, .release⟩
    · exact ⟨_, .downgrade⟩
  have answer := row.exec_of_serving loaded taken rfl
  refine ⟨fun other => ?stale, fun x held gen token owner state => ?pinned⟩
  case stale =>
    rw [answer, row.rule_of_error (State.judgeLease_stale more other)]
    rfl
  case pinned =>
    rw [answer, row.rule_of_error (State.judgeLease_pinned more held gen token owner state)]
    rfl

/-! ### One's own ACTIVE lease -/

/-- R31: the duration a RENEW leaves a lease that has one. -/
theorem Lease.renewed_of_some {x : Lease} {old : Word} (has : x.duration = some old) (d : Word) :
    x.renewed d = if d = 0 then old else d := by
  simp only [Lease.renewed, has, Option.getD_some]

/-- R31: the rule of RENEW on the lease its payload names. -/
theorem ruleRenew_of_ok {s : State} {o : Owner} {h : LeaseHandle} {t : Token} {d : Word} {x : Lease}
    (ok : s.judgeLease o (handleBytes h ++ tokenBytes t ++ wordBytes d) = .ok (h.slot, x)) :
    ruleRenew s o (handleBytes h ++ tokenBytes t ++ wordBytes d) =
      ({ s with
        leases := s.leases.set h.slot (some { x with duration := some (x.renewed d) })
        leaseClock := s.leaseClock.set h.slot { s.leaseClock[h.slot] with value := x.renewed d } },
      .done (.duration (x.renewed d))) := by
  have given : wordAt (handleBytes h ++ tokenBytes t ++ wordBytes d) 7 = d := by
    rw [wordAt_append_right (by simp)]
    simpa using wordAt_wordBytes d []
  simp only [ruleRenew, ok, given]
  rfl

/-- Settles O32: the rule on one's own lease, with the duration now in force. -/
theorem renewReloadsTheCountdown : Obligations.RenewReloadsTheCountdown := by
  intro s l seq client h t d old x loaded taken held gen token owner state has now
  have ok := State.judgeLease_ok (rest := wordBytes d) held gen token owner state
  rw [LeaseRow.renew.exec_of_serving loaded taken rfl, ruleRenew_of_ok ok,
    Lease.renewed_of_some has]
  rfl

/-- R36: the lease's set and its tags' holder lists change, and nothing else. -/
theorem State.shareLease_eq (s : State) (slot : LeaseSlot) (x : Lease) :
    s.shareLease slot x = { s with
      leases := s.leases.set slot
        (some { x with set := x.set.map fun e => { e with mode := .shared } })
      directory := s.directory.map fun r =>
        if r.tag ∈ tagsOf x.set then
          { r with holders := r.holders.map fun q =>
              if q.slot = slot then { q with mode := .shared } else q }
        else r } := by
  simp only [← List.contains_iff_mem]
  rfl

/-- Settles O33: the rule of each row on one's own lease. -/
theorem releaseRemovesAndDowngradeShares : Obligations.ReleaseRemovesAndDowngradeShares := by
  intro s l seq client h t x loaded held gen token owner state
  have ok := State.judgeLease_ok (rest := []) held gen token owner state
  rw [← List.append_nil (handleBytes h ++ tokenBytes t)]
  refine ⟨fun taken => ?release, fun taken => ?downgrade⟩
  case release =>
    rw [LeaseRow.release.exec_of_serving loaded taken rfl]
    simp only [ruleRelease, ok]
    rfl
  case downgrade =>
    rw [LeaseRow.downgrade.exec_of_serving loaded taken rfl]
    simp only [ruleDowngrade, ok, State.shareLease_eq]
    rfl

end Sys2Proof.Machine
end

section
/-! PROOFS. LIST (R38, R39): the walk of a link's leases and waits, counted by positions 0 to 383. -/

namespace Sys2Proof.Machine

/-! ### Positions of the walk -/

/-- The LIST entry at a position of the whole walk, counted from 0 (R38). -/
def State.entryAt? (s : State) (l : Link) (i : Nat) : Option ListEntry :=
  wholeWalk[i]?.bind (s.listEntry? l)

/-- The positions among `n` from `k` on where an entry of the link stands. -/
def State.entryPositions (s : State) (l : Link) (k n : Nat) : List Nat :=
  (List.range' k n).filter fun i => (s.entryAt? l i).isSome

/-- The cursor of a position, with the walk's end at 384 (R38). -/
def cursorAt (i : Nat) : Word := if i = 384 then 0xFFFF else BitVec.ofNat 16 i

theorem wholeWalk_length : wholeWalk.length = 384 := by
  simp only [wholeWalk, List.length_append, List.length_map, List.length_finRange]

/-- The cursor names the position that its number counts to (R38). -/
theorem cursor_wholeWalk {i : Nat} (h : i < wholeWalk.length) :
    wholeWalk[i].cursor = cursorAt i := by
  have inside : i ≠ 384 := by have := wholeWalk_length; omega
  simp only [wholeWalk, List.getElem_append, List.length_map, List.length_finRange,
    List.getElem_map, List.getElem_finRange, cursorAt, if_neg inside]
  split
  case isTrue => rfl
  case isFalse lease =>
    simp only [WalkPosition.cursor, Fin.val_cast, show 256 + (i - 256) = i by omega]

theorem State.entryPositions_succ (s : State) (l : Link) (k n : Nat) :
    s.entryPositions l k (n + 1) =
      if (s.entryAt? l k).isSome then k :: s.entryPositions l (k + 1) n
      else s.entryPositions l (k + 1) n := by
  simp only [State.entryPositions, List.range'_succ, List.filter_cons]

/-- The walk's rest from a position inside it begins there. -/
theorem wholeWalk_drop {k n : Nat} (h : k + (n + 1) = 384) :
    ∃ p, wholeWalk[k]? = some p ∧ p.cursor = cursorAt k
      ∧ wholeWalk.drop k = p :: wholeWalk.drop (k + 1) := by
  have inside : k < wholeWalk.length := by rw [wholeWalk_length]; omega
  exact ⟨wholeWalk[k], List.getElem?_eq_getElem inside, cursor_wholeWalk inside,
    List.drop_eq_getElem_cons inside⟩

/-- Behind its last position the walk is empty. -/
theorem wholeWalk_drop_end : wholeWalk.drop 384 = [] := by
  rw [← wholeWalk_length, List.drop_length]

/-! ### The walk -/

/-- With no room left the walk only names the position it stands at (R38). -/
theorem State.walk_drop_zero (s : State) (l : Link) {k n : Nat} (h : k + n = 384) :
    s.walk l 0 (wholeWalk.drop k) = ([], cursorAt k) := by
  cases n with
  | zero =>
    obtain rfl : k = 384 := h
    rw [wholeWalk_drop_end]
    rfl
  | succ n =>
    obtain ⟨p, -, cursor, rest⟩ := wholeWalk_drop h
    rw [rest, ← cursor]
    rfl

/-- With room left the walk takes the first entries there are room for, and names the position after the
last of them, or the end where it found fewer (R38). -/
theorem State.walk_drop_succ (s : State) (l : Link) {n k room : Nat} (h : k + n = 384) :
    s.walk l (room + 1) (wholeWalk.drop k) =
      (((s.entryPositions l k n).take (room + 1)).filterMap (s.entryAt? l),
        ((s.entryPositions l k n)[room]?).elim 0xFFFF fun i => cursorAt (i + 1)) := by
  induction n generalizing k room with
  | zero =>
    obtain rfl : k = 384 := h
    rw [wholeWalk_drop_end]
    rfl
  | succ n ih =>
    obtain ⟨p, here, -, rest⟩ := wholeWalk_drop h
    have entry : s.entryAt? l k = s.listEntry? l p := by
      simp only [State.entryAt?, here, Option.bind_some]
    have next : k + 1 + n = 384 := by omega
    rw [rest, State.entryPositions_succ, State.walk]
    cases found : s.listEntry? l p with
    | none => simp [entry, found, ih next]
    | some e =>
      cases room with
      | zero => simp [entry, found, State.walk_drop_zero s l next]
      | succ room => simp [entry, found, ih next]

/-! ### The row -/

/-- The cursors that name a position: a lease slot, or a wait slot up to 127 (R38). -/
theorem walkFrom?_eq (kind slot : Byte) :
    walkFrom? [kind, slot] =
      if 256 * kind.toNat + slot.toNat < 384 then
        some (wholeWalk.drop (256 * kind.toNat + slot.toNat))
      else none := by
  have bound := slot.isLt
  simp only [walkFrom?, byteAt_cons_zero, byteAt_cons_succ, Config.waitRecords, Config.leaseRecords]
  match kind.toNat with
  | 0 => rw [if_pos (by omega)]; simp
  | 1 => exact if_congr (by omega) rfl rfl
  | n + 2 =>
    rw [if_neg (by omega)]
    rfl

/-- R38: LIST on a frame the engine has taken. -/
theorem exec_list_of_serving {s : State} {l : Link} {seq : Byte} {client : Client}
    {kind slot : Byte} (taken : s.serving l 0x22 seq client [kind, slot])
    (loaded : s.loading = false) :
    let start := 256 * kind.toNat + slot.toNat
    let found := s.entryPositions l start (384 - start)
    exec .list s = .next
      (if start < 384 then
        s.replies l 0x22 seq .done (.list (found[3]?.elim 0xFFFF fun i => cursorAt (i + 1))
          ((found.take 4).filterMap (s.entryAt? l)))
      else s.replies l 0x22 seq .badParam .empty) := by
  intro start found
  have served : exec .list s = .next (s.serveRequest 0x22 ruleList .toItsEnd) := rfl
  rw [served, State.serveRequest_of_serving ruleList taken loaded rfl nofun]
  simp only [ruleList, walkFrom?_eq]
  by_cases inside : start < 384
  case pos =>
    simp only [start, inside, if_true,
      s.walk_drop_succ l (room := 3) (Nat.add_sub_of_le (Nat.le_of_lt inside))]
    rfl
  case neg =>
    simp only [start, inside, if_false]
    rfl

/-! ### The entries -/

/-- The entries along the walk are those of the lease slots, then those of the wait slots (R38). -/
theorem State.entryAt?_eq (s : State) (l : Link) (i : Nat) :
    s.entryAt? l i =
      ((List.finRange 256).map (fun k => s.listEntry? l (.lease k))
        ++ (List.finRange 128).map fun w => s.listEntry? l (.wait w))[i]?.join := by
  have walk : (List.finRange 256).map (fun k => s.listEntry? l (.lease k))
      ++ (List.finRange 128).map (fun w => s.listEntry? l (.wait w))
      = wholeWalk.map (s.listEntry? l) := by
    simp only [wholeWalk, List.map_append, List.map_map]
    rfl
  rw [walk, List.getElem?_map, State.entryAt?]
  cases wholeWalk[i]? <;> rfl

/-- Settles O37: the row answers the entries at the first positions found, and both are those of the
rules. -/
theorem listWalksTheLinksEntries : Obligations.ListWalksTheLinksEntries := by
  intro s l seq client kind slot loaded taken first lease wait walk start hits next
  have tags : first = firstTag := by
    funext set
    cases set <;> rfl
  have entry : s.entryAt? l = fun i => walk[i]?.join := by
    funext i
    rw [State.entryAt?_eq]
    simp only [walk, lease, wait, tags]
    rfl
  have positions : s.entryPositions l start (384 - start) = hits := by
    simp only [State.entryPositions, entry, hits]
  have cursor : (hits[3]?.elim 0xFFFF fun i => cursorAt (i + 1)) = next := by
    simp only [next]
    cases hits[3]? <;> rfl
  have answer := exec_list_of_serving taken loaded
  simp only [← cursor, ← positions, ← entry]
  exact answer

end Sys2Proof.Machine
end

section
/-! PROOFS. CANCEL (R57): the wait a wait id names for its owner, and the row on a frame the engine has taken. -/

namespace Sys2Proof.Machine

/-! ### The wait a payload names -/

/-- A wait id of one's own live wait names it (R57). -/
theorem State.ownWait?_of_own {s : State} {o : Owner} {w : WaitSlot} {x : Wait}
    (live : s.wait w = some x) (owner : x.owner = o) :
    s.ownWait? o (waitIdBytes ⟨w, x.gen⟩) = some w := by
  have id : waitIdAt (waitIdBytes ⟨w, x.gen⟩) 0 = some ⟨w, x.gen⟩ := by
    simpa using waitIdAt_waitIdBytes ⟨w, x.gen⟩ []
  simp only [State.ownWait?, id, live, owner, Option.any_some, beq_self_eq_true, Bool.and_self,
    if_true]

/-- Any other wait id names no wait: its slot is above 127 or free, or the generation or the owner of the
wait there differs (R57). -/
theorem State.ownWait?_of_other {s : State} {o : Owner} {slot gen : Byte}
    (other : ∀ (w : WaitSlot) (x : Wait), w.val = slot.toNat → s.wait w = some x → x.gen = gen →
      x.owner ≠ o) :
    s.ownWait? o [slot, gen] = none := by
  by_cases inside : slot.toNat < 128
  case neg =>
    have id : waitIdAt [slot, gen] 0 = none := dif_neg inside
    simp only [State.ownWait?, id]
  case pos =>
    have id : waitIdAt [slot, gen] 0 = some ⟨⟨slot.toNat, inside⟩, gen⟩ := dif_pos inside
    simp only [State.ownWait?, id, ite_eq_right_iff, reduceCtorEq, imp_false, Option.any_eq_true,
      Bool.and_eq_true, beq_iff_eq]
    rintro ⟨x, live, sameGen, owner⟩
    exact other ⟨slot.toNat, inside⟩ x rfl live sameGen owner

/-! ### The row -/

/-- R57: CANCEL on a frame the engine has taken is answered by its rule. -/
theorem exec_cancel_of_serving {s : State} {l : Link} {seq : Byte} {client : Client} {p : List Byte}
    (taken : s.serving l 0x14 seq client p) (loaded : s.loading = false) (length : p.length = 2) :
    exec .cancel s = .next
      (match s.ownWait? ⟨l, client⟩ p with
      | none => s.replies l 0x14 seq .notFound .empty
      | some w => (s.cancelWait w).passAndRetire.replies l 0x14 seq .done .empty) := by
  have served : exec .cancel s = .next (s.serveRequest 0x14 ruleCancel .toItsEnd) := rfl
  have accepted : payloadLength? 0x14 = some p.length := by rw [length]; rfl
  rw [served, State.serveRequest_of_serving ruleCancel taken loaded accepted nofun]
  simp only [ruleCancel]
  cases s.ownWait? ⟨l, client⟩ p <;> rfl

/-- A wait's removal leaves the notice queues. -/
@[simp] theorem State.removeWait_notices (s : State) (w : WaitSlot) :
    (s.removeWait w).notices = s.notices := by
  rw [State.removeWait_eq]
  cases s.wait w <;> rfl

/-- R57: a live wait is cancelled by its removal and the release of its reservation. -/
theorem State.cancelWait_of_live {s : State} {w : WaitSlot} {x : Wait} (live : s.wait w = some x) :
    s.cancelWait w = (s.removeWait w).setNotices x.owner.link
      { s.noticeQueue x.owner.link with
        reserved := (s.noticeQueue x.owner.link).reserved - 1 } := by
  simp only [State.cancelWait, live, State.releaseReservation, State.noticeQueue,
    State.removeWait_notices]

/-- Settles O35: the row on the wait that the payload names, or on none. -/
theorem cancelRemovesOnesOwnWait : Obligations.CancelRemovesOnesOwnWait := by
  intro s l seq client loaded
  refine ⟨fun w x taken live owner => ?own, fun slot gen taken other => ?other⟩
  case own =>
    rw [exec_cancel_of_serving taken loaded rfl, State.ownWait?_of_own live owner]
    simp only [State.cancelWait_of_live live, owner]
  case other =>
    rw [exec_cancel_of_serving taken loaded rfl, State.ownWait?_of_other other]

end Sys2Proof.Machine
end

section
/-! PROOFS. The course of a state: what Law 9 and the course of the load read of it (R63, R111, R114), and the
operations that leave it as it is. -/

namespace Sys2Proof.Machine

/-- What Law 9 reads of a state, with the load items and the advances counted (R63, R111, R115). -/
structure Course where
  creation : List WaitSlot
  waits : Vector (Option Wait) 128
  tokens : TokenUnit
  loading : Bool
  controller : Controller
  loads : Nat
  advances : Nat

def State.course (s : State) : Course where
  creation := s.creation
  waits := s.waits
  tokens := s.tokens
  loading := s.loading
  controller := s.store.controller
  loads := s.loads
  advances := s.advances

section
variable (s : State)

/-- Operations that leave the course, one after the other, leave it. -/
theorem State.course_foldl {α : Type} {op : State → α → State}
    (keeps : ∀ t x, (op t x).course = t.course) (xs : List α) :
    (xs.foldl op s).course = s.course :=
  List.foldlRecOn (motive := fun t : State => t.course = s.course) xs op rfl
    fun t kept x _ => (keeps t x).trans kept

/-! ### Updates of one field -/

@[simp] theorem State.course_setLink (l : Link) (x : LinkState) :
    (s.setLink l x).course = s.course := rfl

@[simp] theorem State.course_setLease (i : LeaseSlot) (x : Option Lease) :
    (s.setLease i x).course = s.course := rfl

@[simp] theorem State.course_setDirectory (d : List Record) :
    (s.setDirectory d).course = s.course := rfl

@[simp] theorem State.course_setCountdown (n : CountdownName) (c : Countdown) :
    (s.setCountdown n c).course = s.course := by cases n <;> rfl

@[simp] theorem State.course_setEpochMarks (n : Nat) (m : EpochMarks) :
    (s.setEpochMarks n m).course = s.course := rfl

@[simp] theorem State.course_setPinCells (k : PinSlot) (x : PinCells) :
    (s.setPinCells k x).course = s.course := rfl

@[simp] theorem State.course_setSlotEntry (k : PinSlot) (x : SlotEntry) :
    (s.setSlotEntry k x).course = s.course := rfl

@[simp] theorem State.course_retire : s.retire.course = s.course := rfl

/-! ### Notices, responses, countdowns -/

@[simp] theorem State.course_releaseReservation (l : Link) :
    (s.releaseReservation l).course = s.course := rfl

@[simp] theorem State.course_postReserved (l : Link) (n : Notice) :
    (s.postReserved l n).course = s.course := rfl

@[simp] theorem State.course_postUnreserved (l : Link) (n : Notice) :
    (s.postUnreserved l n).course = s.course := by
  unfold State.postUnreserved
  split <;> rfl

@[simp] theorem State.course_emptyNotices (l : Link) : (s.emptyNotices l).course = s.course := rfl

@[simp] theorem State.course_dropReservations (l : Link) :
    (s.dropReservations l).course = s.course := rfl

@[simp] theorem State.course_appendResponse (l : Link) (r : Response) :
    (s.appendResponse l r).course = s.course := rfl

@[simp] theorem State.course_startClaim (n : CountdownName) (v : Word) (g : Generation) :
    (s.startClaim n v g).course = s.course := s.course_setCountdown n _

@[simp] theorem State.course_reloadClaim (n : CountdownName) (v : Word) :
    (s.reloadClaim n v).course = s.course := s.course_setCountdown n _

/-! ### The items in the engine's hands -/

theorem State.items_appendItem (item : WorkItem) :
    (s.appendItem item).items = s.items ++ [item] := by
  simp only [State.items, State.appendItem]
  split <;> rfl

@[simp] theorem State.loads_appendItem (item : WorkItem) :
    (s.appendItem item).loads = s.loads + if item.isLoad then 1 else 0 := by
  simp only [State.loads, State.items_appendItem, List.countP_append, List.countP_singleton]

@[simp] theorem State.advances_appendItem (item : WorkItem) :
    (s.appendItem item).advances = s.advances + if item.isAdvance then 1 else 0 := by
  simp only [State.advances, State.items_appendItem, List.countP_append, List.countP_singleton,
    ← Nat.add_assoc]
  rfl

/-- An item that is neither the load's nor an advance's joins the list unseen. -/
theorem State.course_appendItem {item : WorkItem} (load : item.isLoad = false)
    (advance : item.isAdvance = false) : (s.appendItem item).course = s.course := by
  simp only [State.course, State.loads_appendItem, State.advances_appendItem, load, advance]
  rfl

@[simp] theorem State.course_appendClockItem (n : CountdownName) :
    (s.appendClockItem n).course = s.course := by
  have load : (clockItem n (s.countdown n).gen).isLoad = false := by cases n <;> rfl
  have advance : (clockItem n (s.countdown n).gen).isAdvance = false := by cases n <;> rfl
  simp only [State.appendClockItem, State.course_appendItem _ load advance,
    State.course_setCountdown]

@[simp] theorem State.course_appendIfRunOut (n : CountdownName) :
    (s.appendIfRunOut n).course = s.course := by
  unfold State.appendIfRunOut
  split <;> simp

@[simp] theorem State.course_clearMark (n : CountdownName) :
    (s.clearMark n).course = s.course := by
  simp only [State.clearMark, State.course_appendIfRunOut, State.course_setCountdown]

/-- What the arbiter takes stays in the engine's hands (R149, R150). -/
theorem State.items_arbitrate : s.arbitrate.items = s.items := by
  unfold State.arbitrate
  split
  case isTrue => rfl
  case isFalse busy =>
    have free : s.inService = none := by simpa using busy
    split
    case h_2 => rfl
    case h_1 src _ =>
      cases src with
      | internal =>
        cases list : s.workList <;> simp [State.take, State.items, list, free]
      | link l =>
        cases fifo : (s.link l).fifo <;> simp [State.take, State.items, fifo, free]

@[simp] theorem State.course_arbitrate : s.arbitrate.course = s.course := by
  have items := s.items_arbitrate
  simp only [State.course, State.loads, State.advances, items]
  rw [State.arbitrate_eq]

/-! ### Leases and records -/

@[simp] theorem State.course_removeLease (i : LeaseSlot) :
    (s.removeLease i).course = s.course := by
  rw [State.removeLease_eq]
  cases s.lease i <;> rfl

@[simp] theorem State.course_removeLeases (slots : List LeaseSlot) :
    (s.removeLeases slots).course = s.course :=
  s.course_foldl State.course_removeLease slots

@[simp] theorem State.course_setLeaseState (i : LeaseSlot) (x : LeaseState) :
    (s.setLeaseState i x).course = s.course := rfl

@[simp] theorem State.course_shareLease (i : LeaseSlot) (x : Lease) :
    (s.shareLease i x).course = s.course := rfl

@[simp] theorem State.course_setPin (tag : Tag) (pin : PinState) :
    (s.setPin tag pin).course = s.course := rfl

@[simp] theorem State.course_dropPinOp (k : PinSlot) : (s.dropPinOp k).course = s.course := rfl

/-! ### The clock's tick and the load's pins -/

@[simp] theorem State.course_tickClock : s.tickClock.course = s.course :=
  State.course_foldl _ State.course_appendClockItem s.dueAtTick

/-- A pin that the load finds touches the lease table and the directory alone (R114). -/
theorem State.loadPin_frame (x : PinSlot × PinData) :
    (s.loadPin x).course = s.course ∧ (s.loadPin x).workList = s.workList := by
  unfold State.loadPin
  split <;> exact ⟨rfl, rfl⟩

theorem State.loadPins_frame (active : List (PinSlot × PinData)) :
    (active.foldl State.loadPin s).course = s.course
      ∧ (active.foldl State.loadPin s).workList = s.workList :=
  List.foldlRecOn (motive := fun t : State => t.course = s.course ∧ t.workList = s.workList) active _
    ⟨rfl, rfl⟩ fun t kept x _ =>
      ⟨(t.loadPin_frame x).1.trans kept.1, (t.loadPin_frame x).2.trans kept.2⟩

/-! ### Windows (R161 to R169) -/

@[simp] theorem State.course_selectFalls (l : Link) : (s.selectFalls l).course = s.course := rfl

@[simp] theorem State.course_markHead (l : Link) (code : Byte) :
    (s.markHead l code).course = s.course := by
  unfold State.markHead
  split <;> rfl

@[simp] theorem State.course_discardResponse (l : Link) :
    (s.discardResponse l).course = s.course := by
  unfold State.discardResponse
  split <;> rfl

@[simp] theorem State.course_discardNotice (l : Link) :
    (s.discardNotice l).course = s.course := by
  unfold State.discardNotice
  split <;> rfl

@[simp] theorem State.course_fetchDiscard (l : Link) (code : Byte) :
    (s.fetchDiscard l code).course = s.course := by
  unfold State.fetchDiscard
  split
  · split <;> simp
  · rfl

@[simp] theorem State.course_shiftPresentation (l : Link) (code : Byte) (stream : List Byte)
    (shifted : Nat) (isHead : Bool) (n : Nat) :
    (s.shiftPresentation l code stream shifted isHead n).course = s.course := by
  unfold State.shiftPresentation
  split <;> simp

@[simp] theorem State.course_beginPresentation (l : Link) (code : Byte) (n : Nat) :
    (s.beginPresentation l code n).course = s.course := by
  simp only [State.beginPresentation, State.course_shiftPresentation, State.course_fetchDiscard]

@[simp] theorem State.course_collect (l : Link) (status : Byte) (old new : List Byte) :
    (s.collect l status old new).course = s.course := by
  simp only [State.collect]
  split
  case h_1 =>
    split
    case isTrue => split <;> simp
    case isFalse => split <;> rfl
  all_goals rfl

@[simp] theorem State.course_receiveBytes (l : Link) (new : List Byte) :
    (s.receiveBytes l new).course = s.course := by
  unfold State.receiveBytes
  split <;> simp

@[simp] theorem State.course_selectRises (l : Link) : (s.selectRises l).course = s.course := by
  unfold State.selectRises
  split
  case h_1 => split <;> rfl
  all_goals rfl

@[simp] theorem State.course_runSegment (l : Link) (w : Segment) :
    (s.runSegment l w).course = s.course := by
  unfold State.runSegment
  cases w.falls <;> cases w.rises <;> simp

@[simp] theorem State.course_windowOf (l : Link) (w : Segment) (ok : Byte → Bool) :
    (s.windowOf l w ok).course = s.course := by
  unfold State.windowOf
  split <;> simp

end

end Sys2Proof.Machine
end

section
/-! PROOFS. Law 9 and the course of the load (R63, R111, R114, R115), over the operations: while the part is
loading no wait stands and nothing of the token unit moves; after it a grant or a failed advance that ends the
unit is followed by the abort of every wait (R61, R62). -/

namespace Sys2Proof.Machine

/-! ### The law and the course of a state -/

/-- The creation order lists the live waits of every state with the same order and the same wait table. -/
theorem CreationLists.congr {s t : State} (h : CreationLists s) (creation : t.creation = s.creation)
    (waits : t.waits = s.waits) : CreationLists t where
  nodup := creation ▸ h.nodup
  live := by simpa only [State.wait, waits, creation] using h.live

/-- The law of a state passes to one with the same waits, unit and phase, no more loads, and no advance more
while loading. -/
theorem EndedUnitLaw.mono {s t : State} (h : EndedUnitLaw s) (creation : t.creation = s.creation)
    (waits : t.waits = s.waits) (tokens : t.tokens = s.tokens) (loading : t.loading = s.loading)
    (reading : t.store.controller = .loading → s.store.controller = .loading)
    (loads : t.loads ≤ s.loads) (advances : s.loading = true → t.advances ≤ s.advances) :
    EndedUnitLaw t where
  lists := h.lists.congr creation waits
  load := by
    obtain ⟨once, reading', waiting, calm⟩ := h.load
    refine ⟨loads.trans once, fun r => ?_, fun w => loading ▸ waiting (w.trans_le loads), ?_⟩
    · obtain ⟨isLoading, none⟩ := reading' (reading r)
      exact ⟨loading ▸ isLoading, Nat.le_zero.1 (none ▸ loads)⟩
    · rw [loading, creation, tokens]
      intro isLoading
      obtain ⟨noWait, atReset, noAdvance⟩ := calm isLoading
      exact ⟨noWait, atReset, Nat.le_zero.1 (noAdvance ▸ advances isLoading)⟩
  empty := by
    rw [creation, tokens]
    exact h.empty

/-- The law reads the course of a state alone. -/
theorem EndedUnitLaw.of_course {s t : State} (h : EndedUnitLaw s) (same : t.course = s.course) :
    EndedUnitLaw t :=
  h.mono (congrArg Course.creation same) (congrArg Course.waits same) (congrArg Course.tokens same)
    (congrArg Course.loading same) (congrArg Course.controller same).symm.trans
    (congrArg Course.loads same).le fun _ => (congrArg Course.advances same).le

/-- While the part is loading no wait is live. -/
theorem EndedUnitLaw.no_wait {s : State} (h : EndedUnitLaw s) (loading : s.loading = true)
    (w : WaitSlot) : s.wait w = none := by
  obtain ⟨noWait, -, -⟩ := h.load.calm loading
  have dead := (h.lists.live w).not.1 (by simp [noWait])
  simpa using dead

/-! ### The part after its load -/

/-- The part has loaded: no load item is left, the controller is out of LOADING, and the creation order lists
the live waits. -/
structure Loaded (s : State) : Prop where
  lists : CreationLists s
  ready : s.loading = false
  loads : s.loads = 0
  read : s.store.controller ≠ .loading

/-- The unit is in FAULT or EXHAUSTED (R63). -/
def TokenUnit.ended (u : TokenUnit) : Prop := u.state = .fault ∨ u.state = .exhausted

/-- Law 9 of a part that has loaded. -/
structure LoadedLaw (s : State) : Prop extends Loaded s where
  empty : s.tokens.ended → s.creation = []

theorem LoadedLaw.law {s : State} (h : LoadedLaw s) : EndedUnitLaw s where
  lists := h.lists
  load :=
    { once := by simp only [h.loads, Nat.zero_le]
      reading := fun r => absurd r h.read
      waiting := fun w => absurd h.loads w.ne'
      calm := by simp only [h.ready, Bool.false_eq_true, false_imp_iff] }
  empty := h.empty

theorem EndedUnitLaw.loaded {s : State} (h : EndedUnitLaw s) (ready : s.loading = false) :
    LoadedLaw s where
  lists := h.lists
  ready := ready
  loads := by
    by_contra some
    exact Bool.false_ne_true (ready.symm.trans (h.load.waiting (Nat.pos_of_ne_zero some)))
  read := fun r => Bool.false_ne_true (ready.symm.trans (h.load.reading r).1)
  empty := h.empty

theorem Loaded.mono {s t : State} (h : Loaded s) (creation : t.creation = s.creation)
    (waits : t.waits = s.waits) (loading : t.loading = s.loading)
    (reading : t.store.controller = .loading → s.store.controller = .loading)
    (loads : t.loads = s.loads) : Loaded t where
  lists := h.lists.congr creation waits
  ready := loading.trans h.ready
  loads := loads.trans h.loads
  read := fun r => h.read (reading r)

theorem Loaded.of_course {s t : State} (h : Loaded s) (same : t.course = s.course) : Loaded t :=
  h.mono (congrArg Course.creation same) (congrArg Course.waits same) (congrArg Course.loading same)
    (congrArg Course.controller same).symm.trans (congrArg Course.loads same)

theorem LoadedLaw.of_course {s t : State} (h : LoadedLaw s) (same : t.course = s.course) :
    LoadedLaw t :=
  (h.law.of_course same).loaded (h.toLoaded.of_course same).ready

/-! ### The removal of waits (R57, R59, R60) -/

/-- A wait's removal takes it from the creation order, and leaves the others (R59). -/
theorem CreationLists.creation_removeWait {s : State} (h : CreationLists s) (w : WaitSlot) :
    (s.removeWait w).creation = s.creation.filter fun v => v != w := by
  rw [State.removeWait_eq]
  cases live : s.wait w with
  | some x => rfl
  | none =>
    refine (List.filter_eq_self.2 fun v listed => ?_).symm
    have other : v ≠ w := by
      rintro rfl
      simpa [live] using (h.live v).1 listed
    simpa using other

/-- A removed slot is free, and every other slot is as it was (R59). -/
theorem State.wait_removeWait (s : State) (w v : WaitSlot) :
    (s.removeWait w).wait v = if v = w then none else s.wait v := by
  rw [State.removeWait_eq]
  cases live : s.wait w with
  | some x => exact State.wait_setWait s w v none
  | none =>
    by_cases same : v = w
    · simp only [same, live, if_true]
    · simp only [same, if_false]

theorem CreationLists.removeWait {s : State} (h : CreationLists s) (w : WaitSlot) :
    CreationLists (s.removeWait w) where
  nodup := by
    rw [h.creation_removeWait w]
    exact h.nodup.filter _
  live v := by
    rw [h.creation_removeWait w, List.mem_filter, h.live v, State.wait_removeWait]
    by_cases same : v = w <;> simp [same]

/-- A wait's removal changes nothing of the token unit, the store and the items. -/
theorem State.removeWait_frame (s : State) (w : WaitSlot) :
    (s.removeWait w).tokens = s.tokens ∧ (s.removeWait w).loading = s.loading
      ∧ (s.removeWait w).store = s.store ∧ (s.removeWait w).loads = s.loads := by
  rw [State.removeWait_eq]
  cases s.wait w <;> exact ⟨rfl, rfl, rfl, rfl⟩

theorem Loaded.removeWait {s : State} (h : Loaded s) (w : WaitSlot) : Loaded (s.removeWait w) := by
  obtain ⟨-, loading, store, loads⟩ := s.removeWait_frame w
  exact ⟨h.lists.removeWait w, loading.trans h.ready, loads.trans h.loads, store ▸ h.read⟩

theorem LoadedLaw.removeWait {s : State} (h : LoadedLaw s) (w : WaitSlot) :
    LoadedLaw (s.removeWait w) where
  toLoaded := h.toLoaded.removeWait w
  empty := by
    obtain ⟨tokens, -⟩ := s.removeWait_frame w
    rw [tokens, h.lists.creation_removeWait w]
    intro ended
    rw [h.empty ended, List.filter_nil]

theorem LoadedLaw.cancelWait {s : State} (h : LoadedLaw s) (w : WaitSlot) :
    LoadedLaw (s.cancelWait w) := by
  unfold State.cancelWait
  cases s.wait w with
  | none => exact h
  | some x => exact (h.removeWait w).of_course (State.course_releaseReservation _ _)

/-- The abort of one wait is, for the course, its removal (R60). -/
theorem State.course_abortWait (reason : AbortReason) (s : State) (w : WaitSlot) :
    (State.abortWait reason s w).course = (s.removeWait w).course := by
  rw [State.abortWait_eq, State.removeWait_eq]
  cases s.wait w <;> rfl

/-- The aborts of the waits listed leave no one of them in the creation order. -/
theorem Loaded.foldl_abortWait {s : State} (h : Loaded s) (reason : AbortReason)
    (ws : List WaitSlot) :
    Loaded (ws.foldl (State.abortWait reason) s)
      ∧ ∀ v ∈ (ws.foldl (State.abortWait reason) s).creation, v ∈ s.creation ∧ v ∉ ws := by
  induction ws generalizing s with
  | nil => exact ⟨h, fun v listed => ⟨listed, List.not_mem_nil⟩⟩
  | cons w rest ih =>
    have removed := State.course_abortWait reason s w
    have creation : (State.abortWait reason s w).creation = s.creation.filter fun v => v != w :=
      (congrArg Course.creation removed).trans (h.lists.creation_removeWait w)
    obtain ⟨loaded, left⟩ := ih ((h.removeWait w).of_course removed)
    refine ⟨loaded, fun v listed => ?_⟩
    obtain ⟨before, apart⟩ := left v listed
    rw [creation, List.mem_filter, bne_iff_ne] at before
    exact ⟨before.1, List.not_mem_cons_of_ne_of_not_mem before.2 apart⟩

/-- R60: after the abort of every wait none stands, whatever the unit's state. -/
theorem Loaded.abortWaits {s : State} (h : Loaded s) (reason : AbortReason) :
    LoadedLaw (s.abortWaits reason) := by
  obtain ⟨loaded, left⟩ := h.foldl_abortWait reason s.creation
  refine ⟨loaded, fun _ => List.eq_nil_iff_forall_not_mem.2 fun v listed => ?_⟩
  obtain ⟨before, apart⟩ := left v listed
  exact apart before

/-! ### The demand and the grant (R86, R89, R50) -/

/-- A start, a request and a demand of an advance touch neither the load's items nor LOADING. -/
theorem State.startAdvance_frame (s : State) :
    s.startAdvance.loads = s.loads ∧ s.startAdvance.store.controller ≠ .loading := by
  unfold State.startAdvance
  split
  · exact ⟨rfl, nofun⟩
  · exact ⟨State.loads_appendItem _ _, nofun⟩

theorem State.requestAdvance_frame (s : State) :
    s.requestAdvance.loads = s.loads
      ∧ (s.requestAdvance.store.controller = .loading → s.store.controller = .loading) := by
  obtain ⟨loads, started⟩ := s.startAdvance_frame
  unfold State.requestAdvance
  split
  case h_1 => exact ⟨loads, fun reading => absurd reading started⟩
  all_goals exact ⟨rfl, id⟩

theorem State.demandToken_frame (s : State) :
    s.demandToken.loads = s.loads
      ∧ (s.demandToken.store.controller = .loading → s.store.controller = .loading) := by
  unfold State.demandToken
  split
  · exact State.requestAdvance_frame _
  · exact ⟨rfl, id⟩

/-- A start of an advance leaves the unit. -/
theorem State.requestAdvance_tokens (s : State) : s.requestAdvance.tokens = s.tokens := by
  unfold State.requestAdvance State.startAdvance
  split
  · split <;> rfl
  all_goals rfl

/-- A demand ends no unit (R86). -/
theorem State.ended_of_demandToken {s : State} (ended : s.demandToken.tokens.ended) :
    s.tokens.ended := by
  unfold State.demandToken at ended
  split at ended
  · rw [State.requestAdvance_tokens] at ended
    exact absurd ended (by simp [TokenUnit.ended])
  · exact ended

theorem LoadedLaw.demandToken {s : State} (h : LoadedLaw s) : LoadedLaw s.demandToken := by
  obtain ⟨loads, reading⟩ := s.demandToken_frame
  have frame := s.demandToken_eq
  have creation : s.demandToken.creation = s.creation := by rw [frame]
  refine ⟨h.toLoaded.mono creation (by rw [frame]) (by rw [frame]) reading loads, fun ended => ?_⟩
  rw [creation]
  exact h.empty (State.ended_of_demandToken ended)

/-- R50: the grant of a lease changes, of the course, the unit alone. -/
theorem Loaded.grantLease {s : State} (h : Loaded s) (i : LeaseSlot) (o : Owner) (set : List Entry)
    (d : Word) : Loaded (s.grantLease i o set d) :=
  h.mono rfl rfl rfl id rfl

theorem Loaded.grantWait {s : State} (h : Loaded s) (w : WaitSlot) (x : Wait) (i : LeaseSlot) :
    Loaded (s.grantWait w x i) :=
  ((h.removeWait w).grantLease i x.owner x.set x.duration).of_course
    (State.course_postReserved _ _ _)

theorem State.grantWait_tokens (s : State) (w : WaitSlot) (x : Wait) (i : LeaseSlot) :
    (s.grantWait w x i).tokens = s.tokens.issue := by
  obtain ⟨tokens, -⟩ := s.removeWait_frame w
  rw [← tokens]
  rfl

/-- The issue of a token never makes a FAULT (R89). -/
theorem TokenUnit.exhausted_of_issue_ended {u : TokenUnit} (ready : u.state = .ready)
    (ended : u.issue.ended) : u.issue.state = .exhausted := by
  refine ended.resolve_left fun fault => ?_
  unfold TokenUnit.issue at fault
  simp only [ready] at fault
  split at fault
  · simp at fault
  · split at fault <;> simp at fault

/-! ### The promotion pass (R52 to R55, R62) -/

theorem LoadedLaw.scan {s : State} (h : LoadedLaw s) (ws : List WaitSlot) :
    LoadedLaw (State.scan ws s) := by
  induction ws generalizing s with
  | nil => exact h
  | cons w rest ih =>
    cases live : s.wait w with
    | none => simpa only [State.scan, live] using ih h
    | some x =>
      rw [State.scan_cons s w rest x live]
      split
      case isFalse => exact ih h
      case isTrue =>
        split
        case h_1 => exact h
        case h_2 i _ =>
          have granted := h.toLoaded.grantWait w x i
          split
          case isFalse => exact h.demandToken
          case isTrue ready =>
            split
            case isTrue => exact granted.abortWaits .exhausted
            case isFalse more =>
              refine ih ⟨granted, fun ended => absurd ?_ more⟩
              rw [State.grantWait_tokens] at ended ⊢
              exact TokenUnit.exhausted_of_issue_ended ready ended

theorem LoadedLaw.settleTables {s : State} (h : LoadedLaw s) (passRuns : Bool) :
    LoadedLaw (s.settleTables passRuns) := by
  refine LoadedLaw.of_course (s := if passRuns then s.promotionPass else s) ?_
    (State.course_retire _)
  split
  · exact h.scan s.creation
  · exact h

/-- With no wait standing the end of an item's work on the tables is seen by no wait. -/
theorem State.course_settleTables_of_empty {s : State} (noWait : s.creation = [])
    (passRuns : Bool) : (s.settleTables passRuns).course = s.course := by
  have pass : s.promotionPass = s := by simp only [State.promotionPass, noWait, State.scan]
  simp only [State.settleTables, pass, ite_self, State.course_retire]

theorem EndedUnitLaw.settleTables {s : State} (h : EndedUnitLaw s) (passRuns : Bool) :
    EndedUnitLaw (s.settleTables passRuns) := by
  cases loading : s.loading with
  | false => exact ((h.loaded loading).settleTables passRuns).law
  | true =>
    obtain ⟨noWait, -⟩ := h.load.calm loading
    exact h.of_course (State.course_settleTables_of_empty noWait passRuns)

/-- R62: the last token of all is followed by the abort of every wait. -/
theorem Loaded.afterGrant {s : State} (h : Loaded s) (noFault : s.tokens.state ≠ .fault) :
    LoadedLaw s.afterGrant := by
  unfold State.afterGrant
  split
  case isTrue => exact (h.abortWaits .exhausted).settleTables true
  case isFalse more => exact ⟨h, fun ended => (ended.elim noFault more).elim⟩

/-! ### The items of the engine and the operations of the store -/

/-- A list's count is no more than that of all items in the engine's hands. -/
theorem State.countP_workList_le (s : State) (p : WorkItem → Bool) :
    s.workList.countP p ≤ s.items.countP p := by
  unfold State.items
  split
  · exact List.countP_cons .. ▸ Nat.le_add_right _ _
  all_goals exact Nat.le_refl _

/-- What the engine holds may give way to nothing, or to a response held back (R155, R156). -/
theorem EndedUnitLaw.setInService {s : State} (h : EndedUnitLaw s) {v : Option Service}
    (noItem : ∀ item, v ≠ some (.internal item)) : EndedUnitLaw { s with inService := v } := by
  have items : ({ s with inService := v } : State).items = s.workList := by
    unfold State.items
    split
    case h_1 item taken => exact absurd taken (noItem item)
    all_goals rfl
  refine h.mono rfl rfl rfl rfl id ?loads fun _ => ?advances
  case loads =>
    simp only [State.loads, items]
    exact s.countP_workList_le _
  case advances =>
    simp only [State.advances, items]
    exact Nat.add_le_add_left (s.countP_workList_le _) _

theorem EndedUnitLaw.arbitrate {s : State} (h : EndedUnitLaw s) : EndedUnitLaw s.arbitrate :=
  h.of_course s.course_arbitrate

theorem EndedUnitLaw.endItem {s : State} (h : EndedUnitLaw s) : EndedUnitLaw s.endItem :=
  (h.setInService (v := none) nofun).arbitrate

/-- An advance's item joins the list of a part that has loaded. -/
theorem EndedUnitLaw.appendAdvance {s : State} (h : EndedUnitLaw s) (ready : s.loading = false)
    (n : Nat) (r : StepResult) : EndedUnitLaw (s.appendItem (.advance n r)) :=
  h.mono rfl rfl rfl rfl id (s.loads_appendItem _).le
    fun loading => absurd (ready.symm.trans loading) Bool.false_ne_true

/-- While the part is loading no advance runs and none is held pending. -/
theorem EndedUnitLaw.no_advance {s : State} (h : EndedUnitLaw s) (loading : s.loading = true) :
    (∀ n, s.store.controller ≠ .busyAdvance n) ∧ s.store.pendingAdvance = false
      ∧ s.items.countP WorkItem.isAdvance = 0 := by
  obtain ⟨-, -, none⟩ := h.load.calm loading
  simp only [State.advances, Nat.add_eq_zero_iff] at none
  obtain ⟨⟨running, pending⟩, items⟩ := none
  refine ⟨fun n busy => ?_, by simpa using pending, items⟩
  simp [busy] at running

/-- R104: the end of an operation starts an advance held pending, which none is while the part is loading. -/
theorem EndedUnitLaw.endOperation {s : State} (h : EndedUnitLaw s) :
    EndedUnitLaw s.endOperation := by
  have frame := s.endOperation_eq
  have ended : s.endOperation.loads = s.loads ∧ s.endOperation.store.controller ≠ .loading := by
    unfold State.endOperation
    split
    · exact State.startAdvance_frame _
    · exact ⟨rfl, nofun⟩
  refine h.mono (by rw [frame]) (by rw [frame]) (by rw [frame]) (by rw [frame])
    (fun reading => absurd reading ended.2) ended.1.le fun loading => ?_
  obtain ⟨-, pending, -⟩ := h.no_advance loading
  have idle : s.endOperation = s.setController .idle := by simp [State.endOperation, pending]
  rw [idle]
  exact Nat.add_le_add_right (Nat.add_le_add_right (Nat.zero_le _) _) _

end Sys2Proof.Machine
end

section
/-! PROOFS. Every command keeps Law 9 (R63): the requests, by the preamble and their rules; the items of the
work list; the store, the clock, the windows and the resets. -/

namespace Sys2Proof.Machine

/-! ### Requests (R145, R153, R155) -/

/-- The rule keeps Law 9 of a part that has loaded. -/
def RuleKeeps (rule : RequestRule) : Prop :=
  ∀ s o p, LoadedLaw s → LoadedLaw (rule s o p).1

/-- The rule leaves the course of every state, so that it keeps Law 9 even while the part is loading. -/
def RuleUnseen (rule : RequestRule) : Prop :=
  ∀ s o p, (rule s o p).1.course = s.course

/-- The preamble passes, while the part is loading, the codes served then alone (R153). -/
theorem State.ready_of_passes {s : State} {l : Link} {f : Frame} (passes : s.preamble l f = none)
    (later : servedWhileLoading.contains f.code = false) : s.loading = false := by
  cases loading : s.loading with
  | false => rfl
  | true =>
    have refused : s.preamble l f = some .notReady := if_pos (by rw [loading, later]; rfl)
    exact nomatch refused.symm.trans passes

/-- A request row keeps the law when the judgement of its requests does; the response, queued or held back,
changes nothing of it. -/
theorem EndedUnitLaw.serveCodes {s : State} (h : EndedUnitLaw s) {ok : Byte → Bool}
    {rule : RequestRule} (extent : Extent)
    (judged : ∀ l f, ok f.code = true → EndedUnitLaw (s.judge rule l f).1) :
    EndedUnitLaw (s.serveCodes ok rule extent) := by
  have respond {t : State} (law : EndedUnitLaw t) (l : Link) (r : Response) :
      EndedUnitLaw (t.respond l r) := (law.of_course (t.course_appendResponse l r)).endItem
  unfold State.serveCodes
  split
  case h_1 l f _ =>
    split
    case isFalse => exact h
    case isTrue own =>
      cases extent with
      | toItsEnd => exact respond (judged l f own) l _
      | toItsResponse => exact (judged l f own).setInService nofun
  case h_2 l r _ =>
    cases extent with
    | toItsResponse => exact h
    | toItsEnd =>
      dsimp only
      split
      · exact respond h l r
      · exact h
  all_goals exact h

/-- A row whose rule leaves the course keeps the law. -/
theorem EndedUnitLaw.serveCodes_of_unseen {s : State} (h : EndedUnitLaw s) (ok : Byte → Bool)
    {rule : RequestRule} (unseen : RuleUnseen rule) (extent : Extent) :
    EndedUnitLaw (s.serveCodes ok rule extent) := by
  refine h.serveCodes extent fun l f _ => ?_
  cases passes : s.preamble l f with
  | some o => simpa only [State.judge_of_refusal passes] using h
  | none => simpa only [State.judge_of_pass passes] using h.of_course (unseen s _ _)

/-- A row of a code that is not served while the part is loading keeps the law when its rule does. -/
theorem EndedUnitLaw.serveRequest {s : State} (h : EndedUnitLaw s) {code : Byte}
    {rule : RequestRule} (keeps : RuleKeeps rule) (extent : Extent)
    (later : servedWhileLoading.contains code = false := by decide) :
    EndedUnitLaw (s.serveRequest code rule extent) := by
  refine h.serveCodes extent fun l f own => ?_
  obtain rfl : f.code = code := by simpa using own
  cases passes : s.preamble l f with
  | some o => simpa only [State.judge_of_refusal passes] using h
  | none =>
    have ready := State.ready_of_passes passes later
    simpa only [State.judge_of_pass passes] using (keeps s _ _ (h.loaded ready)).law

/-! ### The requests that read or set up (R14, R31, R38, R68, R97, R128, R173, R174, R185) -/

theorem ruleQuery_unseen : RuleUnseen ruleQuery := by
  intro s o p
  unfold ruleQuery
  split <;> rfl

theorem ruleCheck_unseen : RuleUnseen ruleCheck := by
  intro s o p
  simp only [ruleCheck]
  split <;> rfl

theorem ruleList_unseen : RuleUnseen ruleList := by
  intro s o p
  unfold ruleList
  split <;> rfl

theorem ruleCaps_unseen : RuleUnseen ruleCaps := fun _ _ _ => rfl

theorem rulePinTable_unseen : RuleUnseen rulePinTable := by
  intro s o p
  unfold rulePinTable
  split <;> rfl

theorem ruleLinkConfig_unseen : RuleUnseen ruleLinkConfig := by
  intro s o p
  unfold ruleLinkConfig
  split <;> rfl

theorem ruleStatus_unseen : RuleUnseen ruleStatus := by
  intro s o p
  unfold ruleStatus
  split
  case h_1 => rfl
  case h_2 clears _ => cases clears <;> rfl

theorem ruleSetTick_unseen : RuleUnseen ruleSetTick := by
  intro s o p
  simp only [ruleSetTick]
  split <;> rfl

theorem ruleRenew_unseen : RuleUnseen ruleRenew := by
  intro s o p
  unfold ruleRenew
  split
  · rfl
  · simp

/-! ### The requests that free leases and waits (R33, R36, R57, R176 to R183) -/

theorem ruleRelease_keeps : RuleKeeps ruleRelease := by
  intro s o p h
  unfold ruleRelease
  split
  · exact h
  · exact (h.of_course (s.course_removeLease _)).settleTables true

theorem ruleDowngrade_keeps : RuleKeeps ruleDowngrade := by
  intro s o p h
  unfold ruleDowngrade
  split
  · exact h
  · exact (h.of_course (s.course_shareLease _ _)).settleTables true

theorem ruleCancel_keeps : RuleKeeps ruleCancel := by
  intro s o p h
  unfold ruleCancel
  split
  · exact h
  · exact (h.cancelWait _).settleTables true

theorem State.course_revokeLease (tag : Tag) (s : State) (i : LeaseSlot) :
    (State.revokeLease tag s i).course = s.course := by
  unfold State.revokeLease
  split <;> simp

theorem ruleRevoke_keeps : RuleKeeps ruleRevoke := by
  intro s o p h
  simp only [ruleRevoke]
  split
  · exact h
  · exact (h.of_course (s.course_foldl (State.course_revokeLease _) _)).settleTables _

/-- A detach removes leases, which the law does not see, and then waits (R179). -/
theorem LoadedLaw.detachOwners {s : State} (h : LoadedLaw s) (p : Owner → Bool) :
    LoadedLaw (s.detachOwners p) :=
  List.foldlRecOn (motive := LoadedLaw) (s.waitsOf p) _ (h.of_course (s.course_removeLeases _))
    fun _ law w _ => law.cancelWait w

theorem ruleDetach_keeps : RuleKeeps ruleDetach := by
  intro s o p h
  unfold ruleDetach
  split
  case h_1 => exact h
  case h_2 => exact (h.detachOwners _).settleTables _
  case h_3 => exact ((h.detachOwners _).of_course (State.course_emptyNotices _ _)).settleTables _

theorem ruleForceDetach_keeps : RuleKeeps ruleForceDetach := by
  intro s o p h
  unfold ruleForceDetach
  split
  · exact h
  · exact ((h.detachOwners _).of_course ((State.course_postUnreserved _ _ _).trans
      (State.course_emptyNotices _ _))).settleTables _

theorem State.course_clearNotices (client : Client) (s : State) (l : Link) :
    (State.clearNotices client s l).course = s.course := by
  simp only [State.clearNotices, State.course_postUnreserved, State.course_dropReservations,
    State.course_emptyNotices]

theorem LoadedLaw.clearTables {s : State} (h : LoadedLaw s) : LoadedLaw s.clearTables :=
  List.foldlRecOn (motive := LoadedLaw) _ _ (h.of_course (s.course_removeLeases _))
    fun _ law w _ => law.removeWait w

theorem ruleClear_keeps : RuleKeeps ruleClear := by
  intro s o p h
  unfold ruleClear
  split
  · exact h
  · exact (h.clearTables.of_course
      (State.course_foldl _ (State.course_clearNotices _) _)).settleTables true

/-! ### PIN and UNPIN (R117, R118, R121, R122) -/

/-- The acceptance of a pin sets the controller to its write, and no wait sees the rest. -/
theorem LoadedLaw.acceptPin {s : State} (h : LoadedLaw s) (client : Client) (d : PinData)
    (k : PinSlot) (i : LeaseSlot) : LoadedLaw (s.acceptPin client d k i) :=
  ⟨h.toLoaded.mono rfl rfl rfl nofun rfl, h.empty⟩

theorem LoadedLaw.acceptUnpin {s : State} (h : LoadedLaw s) (client : Client) (k : PinSlot)
    (r : Record) (i : LeaseSlot) : LoadedLaw (s.acceptUnpin client k r i) :=
  ⟨h.toLoaded.mono rfl rfl rfl nofun rfl, h.empty⟩

/-- The refusals of PIN change nothing (R117). -/
theorem LoadedLaw.pinServe {s : State} (h : LoadedLaw s) (client : Client) (d : PinData) :
    LoadedLaw (s.pinServe client d).1 := by
  unfold State.pinServe
  split
  case isTrue => exact h
  case isFalse =>
    split
    case h_1 => exact h
    case h_2 k _ =>
      split
      case isTrue => exact h
      case isFalse =>
        split
        case isTrue => exact h
        case isFalse =>
          split
          case h_1 => exact h
          case h_2 i _ =>
            split
            · exact h.acceptPin client d k i
            · exact h

theorem rulePin_keeps : RuleKeeps rulePin := by
  intro s o p h
  unfold rulePin
  split
  · exact h
  · exact h.pinServe o.client _

theorem ruleUnpin_keeps : RuleKeeps ruleUnpin := by
  intro s o p h
  unfold ruleUnpin
  split
  case h_1 => exact h
  case h_2 k r i _ =>
    split
    case isTrue => exact h
    case isFalse =>
      split
      · exact h.acceptUnpin o.client k r i
      · exact h

/-! ### ACQUIRE (R22, R27, R29, R45, R46, R62) -/

/-- ACQUIRE is refused at step 3 by a unit that has ended (R24). -/
theorem State.open_of_acquireRefusal {s : State} {o : Owner} {set : List Entry}
    (passes : s.acquireRefusal o set = none) : ¬ s.tokens.ended := by
  rintro (fault | exhausted)
  · simp [State.acquireRefusal, TokenUnit.refusal, fault] at passes
  · simp [State.acquireRefusal, TokenUnit.refusal, exhausted] at passes

theorem LoadedLaw.acquireGrant {s : State} (h : LoadedLaw s) (o : Owner) (r : AcquireRequest)
    (i : LeaseSlot) (ready : s.tokens.state = .ready) : LoadedLaw (s.acquireGrant o r i).1 := by
  refine (h.toLoaded.grantLease i o r.set r.duration).afterGrant fun fault => ?_
  have exhausted := TokenUnit.exhausted_of_issue_ended ready (.inl fault)
  exact absurd (fault.symm.trans exhausted) nofun

theorem LoadedLaw.acquireNoWait {s : State} (h : LoadedLaw s) (set : List Entry) :
    LoadedLaw (s.acquireNoWait set).1 := by
  unfold State.acquireNoWait
  split
  case h_1 => exact h
  case h_2 =>
    split
    · exact h
    · exact h.demandToken

/-- A new wait takes a free slot and the end of the creation order (R42, R45). -/
theorem State.createWait_frame (s : State) (w : WaitSlot) (o : Owner) (r : AcquireRequest) :
    ∃ x, (s.createWait w o r).course
      = ({ s.setWait w (some x) with creation := s.creation ++ [w] } : State).course := by
  refine ⟨⟨stepGeneration s.waitGens[w], o, r.set, r.duration, r.limit⟩, ?_⟩
  simp only [State.createWait]
  split
  · rfl
  · rw [State.course_startClaim]
    rfl

theorem CreationLists.createWait {s : State} (h : CreationLists s) {w : WaitSlot}
    (free : s.wait w = none) (x : Wait) :
    CreationLists { s.setWait w (some x) with creation := s.creation ++ [w] } where
  nodup := by
    refine List.nodup_append.2 ⟨h.nodup, List.nodup_singleton w, fun v listed u new => ?_⟩
    obtain rfl : u = w := by simpa using new
    rintro rfl
    simpa [free] using (h.live v).1 listed
  live v := by
    change v ∈ s.creation ++ [w] ↔ ((s.setWait w (some x)).wait v).isSome = true
    rw [List.mem_append, List.mem_singleton, h.live v, State.wait_setWait]
    by_cases same : v = w <;> simp [same]

theorem LoadedLaw.createWait {s : State} (h : LoadedLaw s) {w : WaitSlot} (free : s.wait w = none)
    (opened : ¬ s.tokens.ended) (o : Owner) (r : AcquireRequest) :
    LoadedLaw (s.createWait w o r) := by
  obtain ⟨x, course⟩ := s.createWait_frame w o r
  refine LoadedLaw.of_course ?_ course
  exact ⟨⟨h.lists.createWait free x, h.ready, h.loads, h.read⟩, fun ended => absurd ended opened⟩

theorem LoadedLaw.acquireWait {s : State} (h : LoadedLaw s) (opened : ¬ s.tokens.ended) (o : Owner)
    (r : AcquireRequest) : LoadedLaw (s.acquireWait o r).1 := by
  unfold State.acquireWait
  split
  case h_1 => exact h
  case h_2 w found =>
    obtain ⟨free, -⟩ := State.freeWait?_eq_some found
    have waits := h.createWait free opened o r
    split
    case isFalse => exact h
    case isTrue =>
      dsimp only
      split
      · exact waits.demandToken
      · exact waits

/-- An immediate grant is made by a READY unit (R26). -/
theorem State.ready_of_immediateSlot? {s : State} {set : List Entry} {i : LeaseSlot}
    (found : s.immediateSlot? set = some i) : s.tokens.state = .ready := by
  unfold State.immediateSlot? at found
  split at found
  case isTrue conditions => simpa using (Bool.and_eq_true_iff.1 conditions).2
  case isFalse => exact nomatch found

theorem ruleAcquire_keeps : RuleKeeps ruleAcquire := by
  intro s o p h
  unfold ruleAcquire
  split
  case h_1 => exact h
  case h_2 r _ =>
    split
    case h_1 => exact h
    case h_2 passes =>
      unfold State.acquireServe
      split
      case h_1 i found => exact h.acquireGrant o r i (State.ready_of_immediateSlot? found)
      case h_2 =>
        split
        · exact h.acquireNoWait r.set
        · exact h.acquireWait (State.open_of_acquireRefusal passes) o r

/-! ### The items of the work list (R77, R79, R87, R88, R114, R119 to R124) -/

theorem EndedUnitLaw.serveExpiry {s : State} (h : EndedUnitLaw s) (i : LeaseSlot)
    (gen : Generation) : EndedUnitLaw (s.serveExpiry i gen) := by
  refine EndedUnitLaw.endItem (EndedUnitLaw.of_course ?_ (State.course_clearMark _ _))
  split
  case h_1 => exact EndedUnitLaw.settleTables (h.of_course (by simp)) true
  case h_2 => exact h

/-- The wait that times out is live, so that the part has loaded. -/
theorem EndedUnitLaw.serveTimeout {s : State} (h : EndedUnitLaw s) (w : WaitSlot)
    (gen : Generation) : EndedUnitLaw (s.serveTimeout w gen) := by
  refine EndedUnitLaw.endItem (EndedUnitLaw.of_course ?_ (State.course_clearMark _ _))
  split
  case h_2 => exact h
  case h_1 x due =>
    have ready : s.loading = false := by
      by_contra loading
      simp [State.timingOut?, h.no_wait (by simpa using loading) w] at due
    exact (((h.loaded ready).removeWait w).of_course
      (State.course_postReserved _ _ _)).law.settleTables true

/-- An advance's item is served after the load alone: until then no advance is asked (R115). -/
theorem EndedUnitLaw.ready_of_advance {s : State} (h : EndedUnitLaw s) {n : Nat} {r : StepResult}
    (taken : s.inService = some (.internal (.advance n r))) : s.loading = false := by
  by_contra loading
  obtain ⟨-, -, none⟩ := h.no_advance (by simpa using loading)
  simp [State.items, taken, WorkItem.isAdvance] at none

theorem EndedUnitLaw.serveAdvance {s : State} (h : EndedUnitLaw s) {n : Nat} {r : StepResult}
    (taken : s.inService = some (.internal (.advance n r))) :
    EndedUnitLaw (s.serveAdvance n r) := by
  have loaded := (h.loaded (h.ready_of_advance taken)).toLoaded
  have unit (u : TokenUnit) : Loaded { s with tokens := u } := loaded.mono rfl rfl rfl id rfl
  refine (LoadedLaw.settleTables ?_ true).law.endItem
  cases r with
  | good => exact ⟨unit _, fun ended => absurd ended (by simp [TokenUnit.ended])⟩
  | failed => exact (unit _).abortWaits .tokenFault

/-- With its one load item served the part has loaded. -/
theorem EndedUnitLaw.endLoad {s : State} (h : EndedUnitLaw s) (noWait : s.creation = [])
    (serves : 0 < s.loads) (last : s.workList.countP WorkItem.isLoad = 0) (u : TokenUnit) :
    EndedUnitLaw ({ s with tokens := u, loading := false } : State).endItem := by
  have read : s.store.controller ≠ .loading := fun reading => by
    obtain ⟨-, none⟩ := h.load.reading reading
    omega
  have loaded : LoadedLaw { s with tokens := u, loading := false, inService := none } :=
    ⟨⟨⟨h.lists.nodup, h.lists.live⟩, rfl, last, read⟩, fun _ => noWait⟩
  exact loaded.law.arbitrate

/-- The load's item is served while the part is loading, with no wait standing (R114). -/
theorem EndedUnitLaw.serveLoad {s : State} (h : EndedUnitLaw s) {n : Nat}
    {active : List (PinSlot × PinData)}
    (taken : s.inService = some (.internal (.load n active))) :
    EndedUnitLaw (s.serveLoad n active) := by
  have loads : s.loads = s.workList.countP WorkItem.isLoad + 1 := by
    simp only [State.loads, State.items, taken]
    exact List.countP_cons_of_pos rfl
  have last : s.workList.countP WorkItem.isLoad = 0 := by have := h.load.once; omega
  have serves : 0 < s.loads := by omega
  obtain ⟨noWait, -⟩ := h.load.calm (h.load.waiting serves)
  obtain ⟨course, workList⟩ := s.loadPins_frame active
  exact (h.of_course course).endLoad ((congrArg Course.creation course).trans noWait)
    (serves.trans_eq (congrArg Course.loads course).symm)
    ((congrArg (List.countP WorkItem.isLoad) workList).trans last) _

theorem EndedUnitLaw.servePinWrite {s : State} (h : EndedUnitLaw s) (k : PinSlot) (r : StepResult) :
    EndedUnitLaw (s.servePinWrite k r) := by
  refine EndedUnitLaw.endItem ?_
  split
  case h_1 => exact h
  case h_2 e _ =>
    cases r with
    | good => exact h.of_course (by simp [State.pinWritten])
    | failed => exact EndedUnitLaw.settleTables (h.of_course (by simp)) true

theorem EndedUnitLaw.servePinVoid {s : State} (h : EndedUnitLaw s) (k : PinSlot) (r : StepResult) :
    EndedUnitLaw (s.servePinVoid k r) := by
  refine EndedUnitLaw.endItem ?_
  split
  case h_1 => exact h
  case h_2 e _ =>
    cases r with
    | good => exact EndedUnitLaw.settleTables (h.of_course (by simp)) true
    | failed => exact h.of_course (by simp [State.pinVoidFailed])

/-! ### The store (R104, R107 to R111) -/

/-- R111: the reading of the store ends, and the load's item joins the list, the only one. -/
theorem EndedUnitLaw.startUpLoad {s : State} (h : EndedUnitLaw s) :
    ∃ t, execStartUpLoad s = .next t ∧ EndedUnitLaw t := by
  refine ⟨_, rfl, ?_⟩
  split
  case isFalse => exact h
  case isTrue reading =>
    simp only [Bool.and_eq_true, beq_iff_eq] at reading
    obtain ⟨loading, none⟩ := h.load.reading reading.2
    obtain ⟨noWait, atReset, noAdvance⟩ := h.load.calm loading
    obtain ⟨-, pending, items⟩ := h.no_advance loading
    refine EndedUnitLaw.arbitrate ⟨⟨h.lists.nodup, h.lists.live⟩, ⟨?once, nofun, fun _ => loading,
      fun _ => ⟨noWait, atReset, ?advances⟩⟩, fun _ => noWait⟩
    case once =>
      rw [State.loads_appendItem]
      exact Nat.add_le_add_right none.le 1
    case advances =>
      rw [State.advances_appendItem]
      change 0 + (if s.store.pendingAdvance then 1 else 0) + s.items.countP WorkItem.isAdvance = 0
      simp [pending, items]

theorem EndedUnitLaw.advance {s : State} (h : EndedUnitLaw s) (beginStep doneStep : StepResult) :
    ∃ t, execAdvance beginStep doneStep s = .next t ∧ EndedUnitLaw t := by
  refine ⟨_, rfl, ?_⟩
  split
  case h_1 n busy =>
    have ready : s.loading = false := by
      by_contra loading
      exact (h.no_advance (by simpa using loading)).1 n busy
    have marked := h.of_course (s.course_setEpochMarks n (advanceMarks beginStep doneStep))
    exact (marked.appendAdvance ready n _).endOperation.arbitrate
  all_goals exact h

theorem EndedUnitLaw.pinWrite {s : State} (h : EndedUnitLaw s)
    (dataStep validStep voidStep : StepResult) :
    ∃ t, execPinWrite dataStep validStep voidStep s = .next t ∧ EndedUnitLaw t := by
  refine ⟨_, rfl, ?_⟩
  split
  case h_1 =>
    exact (h.of_course ((State.course_appendItem _ rfl rfl).trans (by simp))).endOperation.arbitrate
  all_goals exact h

theorem EndedUnitLaw.pinVoid {s : State} (h : EndedUnitLaw s) (voidStep : StepResult) :
    ∃ t, execPinVoid voidStep s = .next t ∧ EndedUnitLaw t := by
  refine ⟨_, rfl, ?_⟩
  split
  case h_1 =>
    exact (h.of_course ((State.course_appendItem _ rfl rfl).trans (by simp))).endOperation.arbitrate
  all_goals exact h

/-! ### Reset (R144) -/

/-- After device reset nothing is loaded, nothing waits and the unit is UNARMED, whatever the cells. -/
theorem EndedUnitLaw.deviceReset (cells : Cells) (unstated : Nat) (pending : List Instr) :
    EndedUnitLaw { State.reset with cells := cells, unstated := unstated, pending := pending } where
  lists := ⟨List.nodup_nil, fun w => by simp [State.wait, State.reset]⟩
  load := ⟨Nat.zero_le 1, fun _ => ⟨rfl, rfl⟩, fun _ => rfl, fun _ => ⟨rfl, rfl, rfl⟩⟩
  empty _ := rfl

/-! ### Every command, every step -/

/-- Every command answers a state that has the law, from every state that has it. -/
theorem EndedUnitLaw.exec {s : State} (h : EndedUnitLaw s) (c : Instr) :
    ∃ t, exec c s = .next t ∧ EndedUnitLaw t := by
  cases c with
  | deviceReset tear => exact ⟨_, rfl, EndedUnitLaw.deviceReset _ _ _⟩
  | resetRelease low =>
    refine ⟨_, rfl, h.of_course ?_⟩
    split <;> rfl
  | startUpLoad => exact h.startUpLoad
  | tick =>
    refine ⟨_, rfl, h.of_course ?_⟩
    split <;> simp
  | countdownReachesZero name =>
    refine ⟨_, rfl, h.of_course ?_⟩
    split <;> simp
  | requestFrame l w | statusRead l byte | fetchResponse l w | fetchDiscardResponse l w
  | fetchNotice l w | fetchDiscardNotice l w =>
    exact ⟨_, rfl, h.of_course (State.course_windowOf _ _ _ _)⟩
  | acquire extent => exact ⟨_, rfl, h.serveRequest ruleAcquire_keeps extent⟩
  | renew extent => exact ⟨_, rfl, h.serveCodes_of_unseen _ ruleRenew_unseen extent⟩
  | release extent => exact ⟨_, rfl, h.serveRequest ruleRelease_keeps extent⟩
  | downgrade extent => exact ⟨_, rfl, h.serveRequest ruleDowngrade_keeps extent⟩
  | cancel extent => exact ⟨_, rfl, h.serveRequest ruleCancel_keeps extent⟩
  | query extent => exact ⟨_, rfl, h.serveCodes_of_unseen _ ruleQuery_unseen extent⟩
  | check extent => exact ⟨_, rfl, h.serveCodes_of_unseen _ ruleCheck_unseen extent⟩
  | list extent => exact ⟨_, rfl, h.serveCodes_of_unseen _ ruleList_unseen extent⟩
  | detach extent => exact ⟨_, rfl, h.serveRequest ruleDetach_keeps extent⟩
  | linkConfig extent => exact ⟨_, rfl, h.serveCodes_of_unseen _ ruleLinkConfig_unseen extent⟩
  | status extent => exact ⟨_, rfl, h.serveCodes_of_unseen _ ruleStatus_unseen extent⟩
  | caps extent => exact ⟨_, rfl, h.serveCodes_of_unseen _ ruleCaps_unseen extent⟩
  | pinTable extent => exact ⟨_, rfl, h.serveCodes_of_unseen _ rulePinTable_unseen extent⟩
  | pin extent => exact ⟨_, rfl, h.serveRequest rulePin_keeps extent⟩
  | unpin extent => exact ⟨_, rfl, h.serveRequest ruleUnpin_keeps extent⟩
  | revoke extent => exact ⟨_, rfl, h.serveRequest ruleRevoke_keeps extent⟩
  | forceDetach extent => exact ⟨_, rfl, h.serveRequest ruleForceDetach_keeps extent⟩
  | setTick extent => exact ⟨_, rfl, h.serveCodes_of_unseen _ ruleSetTick_unseen extent⟩
  | clear extent => exact ⟨_, rfl, h.serveRequest ruleClear_keeps extent⟩
  | unknownRequest extent => exact ⟨_, rfl, h.serveCodes_of_unseen _ (fun _ _ _ => rfl) extent⟩
  | advance beginStep doneStep => exact h.advance beginStep doneStep
  | pinWrite dataStep validStep voidStep => exact h.pinWrite dataStep validStep voidStep
  | pinVoid voidStep => exact h.pinVoid voidStep
  | pendingAdvanceStart =>
    refine ⟨_, rfl, ?_⟩
    split
    · exact h.endOperation.arbitrate
    · exact h
  | expiry =>
    refine ⟨_, rfl, ?_⟩
    split
    · exact h.serveExpiry _ _
    · exact h
  | timeout =>
    refine ⟨_, rfl, ?_⟩
    split
    · exact h.serveTimeout _ _
    · exact h
  | loadCompletion =>
    refine ⟨_, rfl, ?_⟩
    split
    case h_1 taken => exact h.serveLoad taken
    case h_2 => exact h
  | advanceCompletion =>
    refine ⟨_, rfl, ?_⟩
    split
    case h_1 taken => exact h.serveAdvance taken
    case h_2 => exact h
  | pinWriteCompletion =>
    refine ⟨_, rfl, ?_⟩
    split
    · exact h.servePinWrite _ _
    · exact h
  | pinVoidCompletion =>
    refine ⟨_, rfl, ?_⟩
    split
    · exact h.servePinVoid _ _
    · exact h
  | selectRiseAfterReset l =>
    refine ⟨_, rfl, h.of_course ?_⟩
    split <;> rfl

/-- Settles O53: a step takes the command at the front of the queue, which the law does not read,
and every command keeps the law. -/
theorem everyStepKeepsTheEndedUnitLaw : Obligations.EveryStepKeepsTheEndedUnitLaw := by
  intro s t h next
  unfold step at next
  split at next
  case h_1 =>
    obtain rfl := Host.Outcome.next.inj next
    exact h
  case h_2 c rest _ =>
    obtain ⟨u, answer, law⟩ := (h.of_course (t := { s with pending := rest }) rfl).exec c
    obtain rfl := Host.Outcome.next.inj (next.symm.trans answer)
    exact law

end Sys2Proof.Machine
end

section
/-! PROOFS. The lease clock: the countdowns as one family over their names, what a tick makes of it (R67,
R73), and the service of the items that the clock appends (R74, R77 to R79). -/

namespace Sys2Proof.Machine

/-! ### The countdowns as one family -/

/-- The state with the countdowns of all lease slots and of all wait slots replaced (R69). -/
def State.withClocks (s : State) (leases : Vector Countdown 256) (waits : Vector Countdown 128) :
    State :=
  { s with leaseClock := leases, waitClock := waits }

/-- The state with every countdown replaced, by its name (R69). -/
def State.withCountdowns (s : State) (f : CountdownName → Countdown) : State :=
  s.withClocks (.ofFn fun i => f (.lease i)) (.ofFn fun w => f (.wait w))

@[simp] theorem State.countdown_withCountdowns (s : State) (f : CountdownName → Countdown) :
    (s.withCountdowns f).countdown = f := by
  funext n
  cases n <;> simp [State.countdown, State.withCountdowns, State.withClocks]

/-- A state is the one with its own countdowns. -/
theorem State.withCountdowns_eq_self {s : State} {f : CountdownName → Countdown}
    (own : ∀ n, f n = s.countdown n) : s.withCountdowns f = s := by
  simp [State.withCountdowns, State.withClocks, own, State.countdown]

/-- One countdown's replacement, seen over the family. -/
theorem State.setCountdown_eq_withCountdowns (s : State) (n : CountdownName) (c : Countdown) :
    s.setCountdown n c = s.withCountdowns fun m => if m = n then c else s.countdown m := by
  have own : (s.setCountdown n c).withCountdowns (s.setCountdown n c).countdown
      = s.setCountdown n c := State.withCountdowns_eq_self fun _ => rfl
  rw [← own]
  simp only [funext (s.countdown_setCountdown n · c)]
  cases n <;> rfl

theorem mem_allCountdowns (n : CountdownName) : n ∈ allCountdowns := by
  cases n <;> simp [allCountdowns]

/-! ### A tick (R67, R73) -/

/-- The countdown with its mark set. -/
def Countdown.marked (c : Countdown) : Countdown := { c with mark := true }

/-- The state with items appended at the tail of the work list (R146). -/
def State.appendItems (s : State) (items : List WorkItem) : State :=
  { s with workList := s.workList ++ items }

@[simp] theorem State.countdown_appendItems (s : State) (items : List WorkItem) :
    (s.appendItems items).countdown = s.countdown := by
  funext n
  cases n <;> rfl

/-- Clocks replaced and items appended, twice over: the second clocks stand, and the items follow each
other. -/
theorem State.withClocks_appendItems_withClocks_appendItems (s : State)
    (leases leases' : Vector Countdown 256) (waits waits' : Vector Countdown 128)
    (xs ys : List WorkItem) :
    (((s.withClocks leases waits).appendItems xs).withClocks leases' waits').appendItems ys =
      (s.withClocks leases' waits').appendItems (xs ++ ys) := by
  simp only [State.withClocks, State.appendItems, List.append_assoc]

/-- The item that the clock appends for a countdown as it stands (R73). -/
def State.itemOf (s : State) (n : CountdownName) : WorkItem := clockItem n (s.countdown n).gen

/-- The countdowns with the marks of those named set (R73). -/
def State.markedOn (s : State) (names : List CountdownName) (n : CountdownName) : Countdown :=
  if n ∈ names then (s.countdown n).marked else s.countdown n

/-- The clock marks the countdown and appends its item (R73). -/
theorem State.appendClockItem_eq (s : State) (n : CountdownName) :
    s.appendClockItem n = (s.withCountdowns (s.markedOn [n])).appendItems [s.itemOf n] := by
  have marks : s.markedOn [n] =
      fun m => if m = n then (s.countdown n).marked else s.countdown m := by
    funext m
    by_cases same : m = n <;> simp [State.markedOn, same]
  rw [marks]
  exact congrArg (·.appendItem (s.itemOf n)) (s.setCountdown_eq_withCountdowns n _)

/-- The clock marks each countdown named and appends the item of each, in the order named (R73). -/
theorem State.foldl_appendClockItem (s : State) (names : List CountdownName) :
    names.foldl State.appendClockItem s =
      (s.withCountdowns (s.markedOn names)).appendItems (names.map s.itemOf) := by
  induction names generalizing s with
  | nil =>
    have same : s.withCountdowns (s.markedOn []) = s := State.withCountdowns_eq_self fun _ => rfl
    rw [same, List.map_nil, State.appendItems, List.append_nil, List.foldl_nil]
  | cons a rest ih =>
    have marks : (s.appendClockItem a).markedOn rest = s.markedOn (a :: rest) := by
      funext n
      by_cases first : n = a <;>
        simp [State.appendClockItem_eq, State.markedOn, Countdown.marked, first]
    have items : (s.appendClockItem a).itemOf = s.itemOf := by
      funext n
      by_cases first : n = a <;>
        simp [State.appendClockItem_eq, State.itemOf, State.markedOn, Countdown.marked, first]
    rw [List.foldl_cons, ih, marks, items, State.appendClockItem_eq,
      State.withCountdowns, State.withCountdowns, State.withCountdowns,
      State.withClocks_appendItems_withClocks_appendItems, List.map_cons, List.singleton_append]

/-- The countdown reaches 0 at the next tick, and its mark is clear (R73). -/
def Countdown.due (c : Countdown) : Bool := c.running && c.value == 1 && !c.mark

theorem State.mem_dueAtTick {s : State} {n : CountdownName} :
    n ∈ s.dueAtTick ↔ (s.countdown n).due = true := by
  simp only [State.dueAtTick, List.mem_filter, mem_allCountdowns, true_and, Countdown.due]

/-- The due countdowns are those of the leases and then those of the waits, each in slot order (R73). -/
theorem State.dueAtTick_eq (s : State) :
    s.dueAtTick = ((List.finRange 256).filter fun i => s.leaseClock[i].due).map .lease
      ++ ((List.finRange 128).filter fun w => s.waitClock[w].due).map .wait := by
  simp only [State.dueAtTick, allCountdowns, List.filter_append, List.filter_map]
  rfl

/-- R73: one countdown after a tick, its mark set when it is due. -/
def Countdown.afterTick (c : Countdown) : Countdown := if c.due then c.tick.marked else c.tick

theorem Countdown.afterTick_eq (c : Countdown) :
    c.afterTick =
      if c.running = true ∧ c.value ≠ 0 then
        { c with value := c.value - 1, mark := c.mark || c.value == 1 }
      else c := by
  obtain ⟨running, value, gen, mark⟩ := c
  unfold Countdown.afterTick Countdown.due Countdown.tick Countdown.marked
  by_cases last : value = 1
  · subst last
    cases running <;> cases mark <;> rfl
  · have early : (value == 1) = false := by simpa using last
    simp only [early, Bool.and_false, Bool.false_and, Bool.false_eq_true, if_false, Bool.or_false,
      Bool.and_eq_true, bne_iff_ne]

theorem Countdown.tick_gen (c : Countdown) : c.tick.gen = c.gen := by
  unfold Countdown.tick
  split <;> rfl

/-- The state whose countdowns have fallen by the tick and whose divider is the one requested, before any
item is appended (R67, R73). -/
def State.ticked (s : State) : State :=
  { s with dividerInForce := s.dividerRequested }.withCountdowns fun n => (s.countdown n).tick

theorem State.countdown_ticked (s : State) (n : CountdownName) :
    s.ticked.countdown n = (s.countdown n).tick := by
  simp only [State.ticked, State.countdown_withCountdowns]

theorem State.ticked_eq (s : State) :
    s.ticked = { s with
      dividerInForce := s.dividerRequested
      leaseClock := s.leaseClock.map Countdown.tick
      waitClock := s.waitClock.map Countdown.tick } := by
  have leases : s.leaseClock.map Countdown.tick
      = .ofFn fun i : LeaseSlot => (s.countdown (.lease i)).tick := by
    ext i
    simp [State.countdown]
  have waits : s.waitClock.map Countdown.tick
      = .ofFn fun w : WaitSlot => (s.countdown (.wait w)).tick := by
    ext w
    simp [State.countdown]
  exact congrArg₂ ({ s with dividerInForce := s.dividerRequested }.withClocks · ·)
    leases.symm waits.symm

/-- R73: a tick steps every countdown and appends the items of those due. -/
theorem State.tickClock_eq (s : State) :
    s.tickClock = (s.ticked.withCountdowns fun n => (s.countdown n).afterTick).appendItems
      (s.dueAtTick.map s.itemOf) := by
  have clocks : s.ticked.markedOn s.dueAtTick = fun n => (s.countdown n).afterTick := by
    funext n
    simp only [State.markedOn, State.mem_dueAtTick, State.countdown_ticked, Countdown.afterTick]
  have items : s.ticked.itemOf = s.itemOf := by
    funext n
    simp only [State.itemOf, State.countdown_ticked, Countdown.tick_gen]
  rw [State.tickClock, ← State.ticked_eq, State.foldl_appendClockItem, clocks, items]

/-- Settles O7: the tick of each countdown is that of R73, and the items are those of the due ones. -/
theorem tickStepsEveryCountdown : Obligations.TickStepsEveryCountdown := by
  intro s high after due
  have served : exec .tick s = .next s.tickClock.arbitrate := by
    change execTick s = _
    simp [execTick, high]
  have steps : Countdown.afterTick = after := funext Countdown.afterTick_eq
  rw [served, State.tickClock_eq, State.dueAtTick_eq, steps, List.map_append, List.map_map,
    List.map_map]
  simp only [State.ticked, State.withCountdowns, State.withClocks, State.appendItems, List.append_assoc]
  rfl

/-! ### The service of the clock's items (R74, R77 to R79) -/

theorem Countdown.runOut_iff (c : Countdown) :
    c.runOut = true ↔ c.running = true ∧ c.value = 0 := by
  simp only [Countdown.runOut, Bool.and_eq_true, beq_iff_eq]

/-- R77: an expiry item takes effect on an ACTIVE lease of its generation that has run out. -/
theorem State.expiring?_eq_some_iff {s : State} {i : LeaseSlot} {g : Generation} {x : Lease} :
    s.expiring? i g = some x ↔
      s.lease i = some x ∧ x.state = .active ∧ x.gen = g ∧ s.leaseClock[i].running = true
        ∧ s.leaseClock[i].value = 0 := by
  unfold State.expiring?
  cases s.lease i with
  | none => simp
  | some y =>
    simp only [Option.ite_none_right_eq_some, Bool.and_eq_true, beq_iff_eq, Countdown.runOut_iff,
      Option.some.injEq, State.countdown]
    constructor
    · rintro ⟨⟨⟨state, gen⟩, running, value⟩, rfl⟩
      exact ⟨rfl, state, gen, running, value⟩
    · rintro ⟨rfl, state, gen, running, value⟩
      exact ⟨⟨⟨state, gen⟩, running, value⟩, rfl⟩

/-- R79: a timeout item takes effect on a live wait of its generation that has run out. -/
theorem State.timingOut?_eq_some_iff {s : State} {w : WaitSlot} {g : Generation} {x : Wait} :
    s.timingOut? w g = some x ↔
      s.wait w = some x ∧ x.gen = g ∧ s.waitClock[w].running = true ∧ s.waitClock[w].value = 0 := by
  unfold State.timingOut?
  cases s.wait w with
  | none => simp
  | some y =>
    simp only [Option.ite_none_right_eq_some, Bool.and_eq_true, beq_iff_eq, Countdown.runOut_iff,
      Option.some.injEq, State.countdown]
    constructor
    · rintro ⟨⟨gen, running, value⟩, rfl⟩
      exact ⟨rfl, gen, running, value⟩
    · rintro ⟨rfl, gen, running, value⟩
      exact ⟨⟨gen, running, value⟩, rfl⟩

/-- EXPIRY on an item the engine has taken (R77, R78). -/
theorem exec_expiry_of_serving {s : State} {i : LeaseSlot} {g : Generation}
    (taken : s.servingItem (.expiry i g)) : exec .expiry s = .next (s.serveExpiry i g) := by
  have inService : s.inService = some (.internal (.expiry i g)) := taken
  change execExpiry s = _
  simp only [execExpiry, inService]

/-- TIMEOUT on an item the engine has taken (R79). -/
theorem exec_timeout_of_serving {s : State} {w : WaitSlot} {g : Generation}
    (taken : s.servingItem (.timeout w g)) : exec .timeout s = .next (s.serveTimeout w g) := by
  have inService : s.inService = some (.internal (.timeout w g)) := taken
  change execTimeout s = _
  simp only [execTimeout, inService]

/-- R78: the lease that the item names ends. -/
theorem State.serveExpiry_of_expiring {s : State} {i : LeaseSlot} {g : Generation} {x : Lease}
    (expires : s.expiring? i g = some x) :
    s.serveExpiry i g = (((s.removeLease i).postUnreserved x.owner.link
      (.expired x.owner.client ⟨i, g⟩ x.token)).passAndRetire.clearMark (.lease i)).endItem := by
  obtain ⟨-, -, rfl, -⟩ := State.expiring?_eq_some_iff.1 expires
  simp only [State.serveExpiry, expires]
  rfl

/-- R77: the item is discarded. -/
theorem State.serveExpiry_of_not_expiring {s : State} {i : LeaseSlot} {g : Generation}
    (discarded : s.expiring? i g = none) : s.serveExpiry i g = (s.clearMark (.lease i)).endItem := by
  simp only [State.serveExpiry, discarded]

/-- R79: the wait that the item names ends. -/
theorem State.serveTimeout_of_timingOut {s : State} {w : WaitSlot} {g : Generation} {x : Wait}
    (timesOut : s.timingOut? w g = some x) :
    s.serveTimeout w g = (((s.removeWait w).postReserved x.owner.link
      (.waitTimeout x.owner.client ⟨w, g⟩)).passAndRetire.clearMark (.wait w)).endItem := by
  obtain ⟨-, rfl, -⟩ := State.timingOut?_eq_some_iff.1 timesOut
  simp only [State.serveTimeout, timesOut]
  rfl

/-- R79: the item is discarded. -/
theorem State.serveTimeout_of_not_timingOut {s : State} {w : WaitSlot} {g : Generation}
    (discarded : s.timingOut? w g = none) : s.serveTimeout w g = (s.clearMark (.wait w)).endItem := by
  simp only [State.serveTimeout, discarded]

/-- Settles O10: each item in service ends what it still names, or is discarded. -/
theorem clockItemsEndWhatHasRunOut : Obligations.ClockItemsEndWhatHasRunOut := by
  intro s g
  refine ⟨fun i taken => ?expiry, fun w taken => ?timeout⟩
  case expiry =>
    rw [exec_expiry_of_serving taken]
    refine ⟨fun x held state gen running value => ?effect, fun other => ?discard⟩
    case effect =>
      rw [State.serveExpiry_of_expiring
        (State.expiring?_eq_some_iff.2 ⟨held, state, gen, running, value⟩)]
    case discard =>
      rw [State.serveExpiry_of_not_expiring]
      refine Option.eq_none_iff_forall_ne_some.2 fun x expires => ?_
      obtain ⟨held, state, gen, running, value⟩ := State.expiring?_eq_some_iff.1 expires
      exact other x held state gen running value
  case timeout =>
    rw [exec_timeout_of_serving taken]
    refine ⟨fun x live gen running value => ?effect, fun other => ?discard⟩
    case effect =>
      rw [State.serveTimeout_of_timingOut
        (State.timingOut?_eq_some_iff.2 ⟨live, gen, running, value⟩)]
    case discard =>
      rw [State.serveTimeout_of_not_timingOut]
      refine Option.eq_none_iff_forall_ne_some.2 fun x timesOut => ?_
      obtain ⟨live, gen, running, value⟩ := State.timingOut?_eq_some_iff.1 timesOut
      exact other x live gen running value

end Sys2Proof.Machine
end

section
/-! PROOFS. The service of an advance's completion item (R87, R88). -/

namespace Sys2Proof.Machine

/-- ADVANCE_COMPLETION on an item the engine has taken. -/
theorem exec_advanceCompletion_of_serving {s : State} {n : Nat} {r : StepResult}
    (taken : s.servingItem (.advance n r)) :
    exec .advanceCompletion s = .next (s.serveAdvance n r) := by
  have inService : s.inService = some (.internal (.advance n r)) := taken
  change execAdvanceCompletion s = _
  simp only [execAdvanceCompletion, inService]

/-- R87: the unit is READY in the step's epoch, and a pass runs. -/
theorem State.serveAdvance_good (s : State) (n : Nat) :
    s.serveAdvance n .good =
      (({ s with tokens := ⟨.ready, BitVec.ofNat 16 n, 1⟩ } : State).passAndRetire).endItem :=
  rfl

/-- R88: the unit is in FAULT with its epoch kept, and the abort of every wait comes before the pass. -/
theorem State.serveAdvance_failed (s : State) (n : Nat) :
    s.serveAdvance n .failed =
      ((({ s with tokens := ⟨.fault, s.tokens.epoch, 0⟩ } : State).abortWaits
        .tokenFault).passAndRetire).endItem :=
  rfl

/-- Settles O16: the item's result decides what its service makes of the unit. -/
theorem advanceCompletionArmsOrFaultsTheUnit :
    Obligations.AdvanceCompletionArmsOrFaultsTheUnit := by
  intro s n
  refine ⟨fun taken => ?good, fun taken => ?failed⟩
  case good => rw [exec_advanceCompletion_of_serving taken, State.serveAdvance_good]
  case failed => rw [exec_advanceCompletion_of_serving taken, State.serveAdvance_failed]

end Sys2Proof.Machine
end

section
/-! PROOFS. The load of the nonvolatile store: its reading of the cells (R102, R112), and the service of its
completion item on empty tables (R114). -/

namespace Sys2Proof.Machine

/-! ### The begun count (R112) -/

/-- One more epoch step counts when its begin mark is not blank. -/
theorem Cells.begunCount_concat (steps : List (Nat × EpochMarks)) (e : Nat × EpochMarks)
    (pins : Vector PinCells 24) (serial : BitVec 96) :
    (Cells.mk (steps ++ [e]) pins serial).begunCount =
      if e.2.beginMark = .blank then (Cells.mk steps pins serial).begunCount
      else max (Cells.mk steps pins serial).begunCount e.1 := by
  simp [Cells.begunCount]

theorem Cells.le_begunCount (c : Cells) :
    ∀ e ∈ c.epochs, e.2.beginMark ≠ .blank → e.1 ≤ c.begunCount := by
  obtain ⟨steps, pins, serial⟩ := c
  induction steps using List.reverseRecOn with
  | nil => exact fun _ he => absurd he List.not_mem_nil
  | append_singleton steps last ih =>
    intro e he begun
    rw [Cells.begunCount_concat]
    rcases List.mem_append.1 he with earlier | isLast
    · have := ih e earlier begun
      split <;> omega
    · obtain rfl := List.mem_singleton.1 isLast
      rw [if_neg begun]
      exact le_max_right ..

theorem Cells.begunCount_attained (c : Cells) :
    c.begunCount = 0 ∨ ∃ e ∈ c.epochs, e.2.beginMark ≠ .blank ∧ e.1 = c.begunCount := by
  obtain ⟨steps, pins, serial⟩ := c
  induction steps using List.reverseRecOn with
  | nil => exact .inl rfl
  | append_singleton steps last ih =>
    have earlier : (Cells.mk steps pins serial).begunCount = 0 ∨
        ∃ e ∈ steps ++ [last], e.2.beginMark ≠ .blank
          ∧ e.1 = (Cells.mk steps pins serial).begunCount :=
      ih.imp_right fun ⟨e, he, begun⟩ => ⟨e, List.mem_append_left _ he, begun⟩
    rw [Cells.begunCount_concat]
    split
    case isTrue => exact earlier
    case isFalse begun =>
      rcases max_choice (Cells.mk steps pins serial).begunCount last.1 with old | new
      · rw [old]; exact earlier
      · rw [new]; exact .inr ⟨last, by simp, begun, rfl⟩

/-! ### The reading of a pin slot (R102, R112) -/

/-- R102: the data that pass their check. -/
theorem PinCells.checkedData?_eq_some_iff {x : PinCells} {d : PinData} :
    x.checkedData? = some d ↔ x.data = .complete .asWritten d d.check ∧ d.tag ≠ 0 := by
  unfold PinCells.checkedData?
  split
  case h_1 e check written =>
    simp only [written, Option.ite_none_right_eq_some, Bool.and_eq_true, bne_iff_ne, beq_iff_eq,
      Option.some.injEq, DataCells.complete.injEq, true_and]
    constructor
    · rintro ⟨⟨tag, rfl⟩, rfl⟩
      exact ⟨⟨rfl, rfl⟩, tag⟩
    · rintro ⟨⟨rfl, rfl⟩, tag⟩
      exact ⟨⟨tag, rfl⟩, rfl⟩
  all_goals simp [*]

/-- R112: a slot reads ACTIVE, lower slots of its tag apart. -/
theorem PinCells.activeData?_eq_some_iff {x : PinCells} {d : PinData} :
    x.activeData? = some d ↔
      (x.data = .complete .asWritten d d.check ∧ d.tag ≠ 0) ∧ x.valid = .complete
        ∧ x.void = .blank := by
  rw [PinCells.activeData?, Option.ite_none_right_eq_some, PinCells.checkedData?_eq_some_iff,
    Bool.and_eq_true, beq_iff_eq, beq_iff_eq, and_comm]

theorem PinCells.readsBlank_iff {x : PinCells} :
    x.readsBlank = true ↔ x = ⟨.blank, .blank, .blank⟩ := by
  obtain ⟨data, valid, void⟩ := x
  simp only [PinCells.readsBlank, Bool.and_eq_true, beq_iff_eq, PinCells.mk.injEq, and_assoc]

/-- R112: of the slots of one tag that read ACTIVE, the lowest is ACTIVE. -/
theorem Cells.active?_eq_some_iff {c : Cells} {k : PinSlot} {d : PinData} :
    c.active? k = some d ↔
      c.pins[k].activeData? = some d
        ∧ ∀ j e, j < k → c.pins[j].activeData? = some e → e.tag ≠ d.tag := by
  simp only [Cells.active?, Option.filter_eq_some_iff, List.all_eq_true, List.mem_finRange,
    true_imp_iff, Bool.not_eq_true', Bool.and_eq_false_imp, decide_eq_true_eq,
    Option.any_eq_false, beq_eq_false_iff_ne]
  exact and_congr_right fun _ => forall_congr' fun _ => forall_comm

theorem Cells.entry_of_active {c : Cells} {k : PinSlot} {d : PinData} (active : c.active? k = some d)
    (old : SlotEntry) : c.entry k old = ⟨.active, d, true⟩ := by
  obtain ⟨reads, -⟩ := Cells.active?_eq_some_iff.1 active
  have checked : c.pins[k].checkedData? = some d :=
    PinCells.checkedData?_eq_some_iff.2 (PinCells.activeData?_eq_some_iff.1 reads).1
  rw [Cells.entry, active, checked]
  rfl

theorem Cells.entry_of_not_active {c : Cells} {k : PinSlot} (inactive : c.active? k = none)
    (old : SlotEntry) :
    c.entry k old =
      ⟨if c.pins[k].readsBlank then .blank else .void, c.pins[k].checkedData?.getD old.data,
        c.pins[k].checkedData?.isSome⟩ := by
  simp [Cells.entry, inactive]

/-- Settles O11: the begun count is the highest step begun, and each slot's entry follows from its reading
and those of the lower slots of its tag. -/
theorem theLoadReadsTheCells : Obligations.TheLoadReadsTheCells := by
  intro c k old passes would first
  have would_iff (j : PinSlot) (d : PinData) : c.pins[j].activeData? = some d ↔ would j d :=
    PinCells.activeData?_eq_some_iff
  have active_iff (d : PinData) : c.active? k = some d ↔ would k d ∧ first d := by
    simp only [Cells.active?_eq_some_iff, would_iff, first]
  refine ⟨c.le_begunCount, c.begunCount_attained, fun d reads lowest => ?active,
    fun blank => ?blank, fun shadowed written => ?void⟩
  case active => exact Cells.entry_of_active ((active_iff d).2 ⟨reads, lowest⟩) old
  case blank =>
    have inactive : c.active? k = none := by
      refine Option.eq_none_iff_forall_ne_some.2 fun d active => ?_
      obtain ⟨⟨⟨data, -⟩, -⟩, -⟩ := (active_iff d).1 active
      rw [blank] at data
      exact DataCells.noConfusion data
    rw [Cells.entry_of_not_active inactive, blank]
    rfl
  case void =>
    have inactive : c.active? k = none :=
      Option.eq_none_iff_forall_ne_some.2 fun d active =>
        let ⟨reads, lowest⟩ := (active_iff d).1 active
        shadowed d reads lowest
    have void : c.pins[k].readsBlank = false :=
      Bool.eq_false_iff.2 (written ∘ PinCells.readsBlank_iff.1)
    rw [Cells.entry_of_not_active inactive, void]
    refine ⟨fun d shown => ?_, fun hidden => ?_⟩
    · rw [PinCells.checkedData?_eq_some_iff.2 shown]
      rfl
    · rw [Option.eq_none_iff_forall_ne_some.2 fun d checked =>
        hidden d (PinCells.checkedData?_eq_some_iff.1 checked)]
      rfl

/-! ### The directory with a record more -/

/-- A change of a tag that has no record adds one record to the directory (R10). -/
theorem alterRecord_perm_cons {tag : Tag} (f : Record → Record) {d : List Record}
    (missing : tag ∉ d.map Record.tag) : (alterRecord tag f d).Perm (f (.fresh tag) :: d) := by
  induction d with
  | nil => exact .refl _
  | cons r rest ih =>
    rw [List.map_cons, List.mem_cons, not_or] at missing
    obtain ⟨other, missing⟩ := missing
    rw [alterRecord, if_neg other]
    split
    case isTrue => exact .refl _
    case isFalse => exact ((ih missing).cons r).trans (.swap ..)

/-- A record of a directory with one record for each tag is the one its tag reads (R2). -/
theorem State.record?_of_mem {s : State} {r : Record}
    (distinct : (s.directory.map Record.tag).Nodup) (mem : r ∈ s.directory) :
    s.record? r.tag = some r := by
  cases found : s.record? r.tag with
  | none => exact absurd (beq_self_eq_true r.tag) (List.find?_eq_none.1 found r mem)
  | some q =>
    have sameTag : q.tag = r.tag := by simpa using List.find?_some found
    exact congrArg some
      (List.inj_on_of_nodup_map distinct (List.mem_of_find?_eq_some found) mem sameTag)

/-! ### The pins that the load makes (R114) -/

/-- A pin that the load makes touches the directory and the lease table, and nothing else (R114). -/
theorem State.loadPin_eq (s : State) (x : PinSlot × PinData) :
    s.loadPin x = { s with
      directory := (s.loadPin x).directory
      leases := (s.loadPin x).leases
      leaseGens := (s.loadPin x).leaseGens } := by
  unfold State.loadPin
  split <;> rfl

theorem State.foldl_loadPin_eq (s : State) (active : List (PinSlot × PinData)) :
    active.foldl State.loadPin s = { s with
      directory := (active.foldl State.loadPin s).directory
      leases := (active.foldl State.loadPin s).leases
      leaseGens := (active.foldl State.loadPin s).leaseGens } :=
  List.foldlRecOn
    (motive := fun t : State => t = { s with
      directory := t.directory
      leases := t.leases
      leaseGens := t.leaseGens })
    active _ rfl fun t kept x _ =>
      (t.loadPin_eq x).trans (congrArg
        (fun u : State => { u with
          directory := (t.loadPin x).directory
          leases := (t.loadPin x).leases
          leaseGens := (t.loadPin x).leaseGens })
        kept)

/-- The pin of an ACTIVE slot when a lease slot is free (R114). -/
theorem State.loadPin_of_free {s : State} {i : LeaseSlot} (free : s.freeLease? = some i)
    (x : PinSlot × PinData) :
    s.loadPin x = { s with
      directory := alterRecord x.2.tag
        (fun r => { r with holders := r.holders ++ [⟨i, .exclusive⟩], pin := .pinned x.1 })
        s.directory
      leases := s.leases.set i (some
        ⟨stepGeneration s.leaseGens[i], x.2.owner, [⟨x.2.tag, .exclusive⟩], 0, none, .pinned⟩)
      leaseGens := s.leaseGens.set i (stepGeneration s.leaseGens[i]) } := by
  rw [State.loadPin, free]
  rfl

/-- The lease of an ACTIVE slot (R114). -/
def loadedLease (x : PinSlot × PinData) : Lease :=
  ⟨1, x.2.owner, [⟨x.2.tag, .exclusive⟩], 0, none, .pinned⟩

/-- The record of an ACTIVE slot's tag, when its lease has the slot of that number (R114). -/
def loadedRecord (n : Nat) (x : PinSlot × PinData) : Record :=
  ⟨x.2.tag, [⟨Fin.ofNat 256 n, .exclusive⟩], [], 0, .pinned x.1⟩

/-- The tables hold the pins of the ACTIVE slots listed, and nothing else: their leases have the lowest
slots, in their order (R114). -/
structure State.HoldsLoaded (s : State) (active : List (PinSlot × PinData)) : Prop where
  lease : ∀ i : LeaseSlot, s.lease i = active[i.val]?.map loadedLease
  gen : ∀ i : LeaseSlot, s.leaseGens[i] = if i.val < active.length then 1 else 0
  records : s.directory.Perm (active.mapIdx loadedRecord)

namespace State.HoldsLoaded

variable {s : State} {active : List (PinSlot × PinData)}

theorem tags (h : s.HoldsLoaded active) :
    (s.directory.map Record.tag).Perm (active.map fun p => p.2.tag) := by
  have same : (active.mapIdx loadedRecord).map Record.tag = active.map fun p => p.2.tag :=
    List.ext_getElem? fun n => by simp [loadedRecord, Function.comp_def]
  exact same ▸ h.records.map Record.tag

theorem record? (h : s.HoldsLoaded active) (distinct : (active.map fun p => p.2.tag).Nodup)
    {i : LeaseSlot} {p : PinSlot × PinData} (at_i : active[i.val]? = some p) :
    s.record? p.2.tag = some ⟨p.2.tag, [⟨i, .exclusive⟩], [], 0, .pinned p.1⟩ := by
  have slot : Fin.ofNat 256 i.val = i := Fin.ofNat_val_eq_self i
  have mem : loadedRecord i.val p ∈ active.mapIdx loadedRecord :=
    List.mem_of_getElem? (by rw [List.getElem?_mapIdx, at_i, Option.map_some])
  have read := State.record?_of_mem (h.tags.nodup_iff.2 distinct) (h.records.mem_iff.2 mem)
  rwa [loadedRecord, slot] at read

/-- The lowest free lease slot is the one after the pins. -/
theorem freeLease? (h : s.HoldsLoaded active) (room : active.length < 256) :
    s.freeLease? = some ⟨active.length, room⟩ := by
  refine State.freeLease?_of_lowest ?_ fun j lower => ?_
  · rw [h.lease, List.getElem?_eq_none (le_refl _), Option.map_none]
  · rw [h.lease, List.getElem?_eq_getElem lower]
    exact Option.some_ne_none _

/-- One more ACTIVE slot, of a tag that no pin has, adds its pin. -/
theorem loadPin (h : s.HoldsLoaded active) (x : PinSlot × PinData) (room : active.length < 256)
    (newTag : x.2.tag ∉ active.map fun p => p.2.tag) :
    (s.loadPin x).HoldsLoaded (active ++ [x]) := by
  have gen : stepGeneration s.leaseGens[(⟨active.length, room⟩ : LeaseSlot)] = 1 := by
    rw [h.gen, if_neg (lt_irrefl _)]
    rfl
  have slot : Fin.ofNat 256 active.length = ⟨active.length, room⟩ :=
    Fin.ext (Nat.mod_eq_of_lt room)
  rw [State.loadPin_of_free (h.freeLease? room), gen]
  refine ⟨fun i => ?lease, fun i => ?gen, ?records⟩
  case lease =>
    have old := h.lease i
    simp only [State.lease, Fin.getElem_fin] at old ⊢
    rw [Vector.getElem_set, old]
    by_cases last : active.length = i.val
    · rw [if_pos last, ← last, List.getElem?_concat_length]
      rfl
    · rw [if_neg last, List.getElem?_append]
      split
      case isTrue => rfl
      case isFalse =>
        rw [List.getElem?_eq_none (by omega),
          List.getElem?_eq_none (by rw [List.length_singleton]; omega)]
  case gen =>
    have old := h.gen i
    simp only [Fin.getElem_fin] at old ⊢
    rw [Vector.getElem_set, old, List.length_append, List.length_singleton]
    by_cases last : active.length = i.val
    · rw [if_pos last, if_pos (by omega)]
    · rw [if_neg last]
      exact if_congr (by omega) rfl rfl
  case records =>
    have newTag : x.2.tag ∉ s.directory.map Record.tag := mt h.tags.mem_iff.1 newTag
    rw [List.mapIdx_concat]
    refine (alterRecord_perm_cons _ newTag).trans ?_
    refine List.Perm.trans ?_ (List.perm_append_singleton ..).symm
    rw [loadedRecord, slot]
    exact h.records.cons _

end State.HoldsLoaded

/-- The load's item, on empty tables, leaves the pins of its ACTIVE slots in them (R114). -/
theorem State.holdsLoaded_foldl {s : State} (empty : s.HoldsLoaded [])
    {active : List (PinSlot × PinData)} (room : active.length ≤ 256)
    (distinct : (active.map fun p => p.2.tag).Nodup) :
    (active.foldl State.loadPin s).HoldsLoaded active := by
  induction active using List.reverseRecOn with
  | nil => exact empty
  | append_singleton earlier x ih =>
    rw [List.length_append, List.length_singleton] at room
    rw [List.map_append, List.map_singleton, List.nodup_append_comm, List.singleton_append,
      List.nodup_cons] at distinct
    obtain ⟨newTag, distinct⟩ := distinct
    rw [List.foldl_concat]
    exact (ih (by omega) distinct).loadPin x (by omega) newTag

/-- LOAD_COMPLETION on an item the engine has taken. -/
theorem exec_loadCompletion_of_serving {s : State} {n : Nat} {active : List (PinSlot × PinData)}
    (taken : s.servingItem (.load n active)) :
    exec .loadCompletion s = .next (s.serveLoad n active) := by
  have inService : s.inService = some (.internal (.load n active)) := taken
  change execLoadCompletion s = _
  simp only [execLoadCompletion, inService]

/-- Settles O13: the pins of the ACTIVE slots stand alone in the tables that the load found empty. -/
theorem loadCompletionMakesThePins : Obligations.LoadCompletionMakesThePins := by
  intro s begun active taken noRecord noLease noGen count distinct
  have empty : s.HoldsLoaded [] := ⟨noLease, noGen, noRecord ▸ .refl _⟩
  have made := State.holdsLoaded_foldl empty (by omega : active.length ≤ 256) distinct
  refine ⟨{ active.foldl State.loadPin s with
      tokens := (active.foldl State.loadPin s).tokens.afterLoad begun
      loading := false },
    exec_loadCompletion_of_serving taken, ?frame, ?records, fun i => ⟨?pin, ?free⟩⟩
  case frame =>
    rw [State.foldl_loadPin_eq]
    rfl
  case records => exact made.records.length_eq.trans List.length_mapIdx
  case pin =>
    intro p at_i
    obtain ⟨below, -⟩ := List.getElem?_eq_some_iff.1 at_i
    have lease := made.lease i
    have gen := made.gen i
    rw [at_i] at lease
    rw [if_pos below] at gen
    exact ⟨lease, gen, made.record? distinct at_i⟩
  case free =>
    intro above
    have lease := made.lease i
    have gen := made.gen i
    rw [List.getElem?_eq_none above] at lease
    rw [if_neg (not_lt.2 above)] at gen
    exact ⟨lease, gen⟩

end Sys2Proof.Machine
end

section
/-! PROOFS. PIN-TABLE (R128): the page of slots from the first slot on, in slot order. -/

namespace Sys2Proof.Machine

/-- A byte up to 23 names its pin slot (R102). -/
theorem pinSlotAt_of_val {b : Byte} {k : PinSlot} (names : k.val = b.toNat) :
    pinSlotAt [b] 0 = some k := by
  have inside : b.toNat < 24 := names ▸ k.isLt
  have read : pinSlotAt [b] 0 = some ⟨b.toNat, inside⟩ := dif_pos inside
  rw [read, Option.some.injEq, Fin.ext_iff, names]

/-- A byte above 23 names no pin slot (R102). -/
theorem pinSlotAt_of_le {b : Byte} (above : 24 ≤ b.toNat) : pinSlotAt [b] 0 = none :=
  dif_neg (Nat.not_lt.2 above)

/-- R128: the page holds the slots from the first slot on, up to six of them. -/
theorem pinTablePage_eq_filter (first : PinSlot) :
    pinTablePage first =
      (List.finRange 24).filter fun k => first.val ≤ k.val ∧ k.val < first.val + 6 := by
  revert first
  decide

/-- R128: the slot after the last entry, or 0xFF behind slot 23. -/
theorem pinTableNext_of_val {b : Byte} {first : PinSlot} (names : first.val = b.toNat) :
    pinTableNext first = if b.toNat < 18 then b + 6 else 0xFF := by
  have after : BitVec.ofNat 8 (b.toNat + 6) = b + 6 := by bv_omega
  simp only [pinTableNext, Config.pinSlots, names, after]
  exact if_congr (by omega) rfl rfl

/-- R128: the rule of PIN-TABLE on the first slot its payload names. -/
theorem rulePinTable_of_val {b : Byte} {first : PinSlot} (names : first.val = b.toNat) (s : State)
    (o : Owner) :
    rulePinTable s o [b] =
      (s, .done (.pinTable first (pinTableNext first)
        ((pinTablePage first).map s.pinTableEntry))) := by
  simp only [rulePinTable, pinSlotAt_of_val names]

/-- R128: a first slot above 23 is refused. -/
theorem rulePinTable_of_le {b : Byte} (above : 24 ≤ b.toNat) (s : State) (o : Owner) :
    rulePinTable s o [b] = (s, .plain .badParam) := by
  simp only [rulePinTable, pinSlotAt_of_le above]

/-- R128: PIN-TABLE on a frame the engine has taken is answered by its rule. -/
theorem exec_pinTable_of_serving {s : State} {l : Link} {seq : Byte} {client : Client} {b : Byte}
    (taken : s.serving l 0x34 seq client [b]) (loaded : s.loading = false) :
    let r := rulePinTable s ⟨l, client⟩ [b]
    exec .pinTable s = .next (r.1.replies l 0x34 seq r.2.outcome r.2.payload) := by
  have served : exec .pinTable s = .next (s.serveRequest 0x34 rulePinTable .toItsEnd) := rfl
  rw [served, State.serveRequest_of_serving rulePinTable taken loaded rfl nofun]

/-- Settles O38: the page of the first slot that the payload names, or the refusal where it names none. -/
theorem pinTableReadsAPage : Obligations.PinTableReadsAPage := by
  intro s l seq client b loaded taken entry
  have row := exec_pinTable_of_serving taken loaded
  refine ⟨fun inside => ?page, fun above => ?refused⟩
  case page =>
    have names : (⟨b.toNat, inside⟩ : PinSlot).val = b.toNat := rfl
    rw [rulePinTable_of_val names, pinTableNext_of_val names, pinTablePage_eq_filter] at row
    exact row
  case refused =>
    rw [rulePinTable_of_le above] at row
    exact row

end Sys2Proof.Machine
end

section
/-! PROOFS. The updates and the checks that the pins share (R104, R116 to R124, R130). -/

namespace Sys2Proof.Machine

/-! ### Leases and records -/

theorem onTags_singleton (tag : Tag) (f : Record → Record) (d : List Record) :
    onTags [tag] f d = d.map fun r => if r.tag = tag then f r else r := by
  simp only [onTags, List.contains_iff_mem, List.mem_singleton]

theorem State.setPin_eq (s : State) (tag : Tag) (pin : PinState) :
    s.setPin tag pin = { s with
      directory := s.directory.map fun r => if r.tag = tag then { r with pin := pin } else r } := by
  rw [State.setPin, onTags_singleton]
  rfl

theorem State.setLeaseState_of_held {s : State} {i : LeaseSlot} {x : Lease}
    (held : s.lease i = some x) (state : LeaseState) :
    s.setLeaseState i state =
      { s with leases := s.leases.set i (some { x with state := state }) } := by
  rw [State.setLeaseState, held]
  rfl

@[simp] theorem State.removeLease_pinOps (s : State) (i : LeaseSlot) :
    (s.removeLease i).pinOps = s.pinOps := by
  rw [State.removeLease_eq]
  cases s.lease i <;> rfl

/-! ### The checks of PIN and UNPIN -/

/-- The NV_BUSY check passes (R117, R121). -/
theorem State.storeFree_iff {s : State} :
    s.storeFree = true ↔ s.store.controller = .idle ∧ s.store.pendingAdvance = false := by
  simp only [State.storeFree, Bool.and_eq_true, beq_iff_eq, Bool.not_eq_true']

/-- A notice queue holds 32 notices, stored and reserved together (R130). -/
theorem NoticeQueue.hasRoom_iff {q : NoticeQueue} :
    q.hasRoom = true ↔ q.stored.length + q.reserved < 32 := decide_eq_true_iff

/-- The directory is full (R12). -/
theorem State.freeRecords_eq_zero_iff {s : State} :
    s.freeRecords = 0 ↔ 256 ≤ s.directory.length := Nat.sub_eq_zero_iff_le

/-- The search finds the lowest BLANK pin slot (R118). -/
theorem State.blankSlot?_of_lowest {s : State} {k : PinSlot}
    (blank : s.store.slots[k].state = .blank)
    (lowest : ∀ j < k, s.store.slots[j].state ≠ .blank) : s.blankSlot? = some k := by
  rw [State.blankSlot?, List.find?_eq_some_iff_getElem]
  refine ⟨beq_iff_eq.2 blank, k.val, by simp, by simp, fun j below => ?_⟩
  simpa using lowest ⟨j, below.trans k.isLt⟩ below

end Sys2Proof.Machine
end

section
/-! PROOFS. PIN (R117, R118): the pin its payload asks for, and its checks in their order. -/

namespace Sys2Proof.Machine

/-! ### The pin asked for -/

/-- A byte above 3 is no link's code (R186). -/
theorem linkAt_of_lt {link : Byte} (above : 3 < link.toNat) (rest : List Byte) :
    linkAt (link :: rest) 0 = none := by
  obtain ⟨n, value⟩ := Nat.exists_eq_add_of_le' above
  rw [linkAt, byteAt_cons_zero, value]
  rfl

/-- R117: tag 0, or no link's code. -/
theorem pinRequest?_of_bad {tag : Tag} {link owner : Byte} (bad : tag = 0 ∨ 3 < link.toNat) :
    pinRequest? (wordBytes tag ++ [link, owner]) = none := by
  have linkField : linkAt (wordBytes tag ++ [link, owner]) 2 = linkAt [link, owner] 0 := rfl
  rw [pinRequest?, wordAt_wordBytes, linkField]
  rcases bad with zero | noLink
  · rw [if_pos zero]
  · rw [linkAt_of_lt noLink, Option.map_none, ite_self]

/-- R118: the pin that a good payload asks for. -/
theorem pinRequest?_of_link {tag : Tag} (named : tag ≠ 0) (o : Link) (owner : Byte) :
    pinRequest? (wordBytes tag ++ [Link.byte o, owner]) = some ⟨tag, o, owner⟩ := by
  have linkField : linkAt (wordBytes tag ++ [Link.byte o, owner]) 2 = some o :=
    linkAt_byte o [owner]
  rw [pinRequest?, wordAt_wordBytes, if_neg named, linkField]
  rfl

/-! ### The checks, in their order (R117) -/

section
variable {s : State} {client : Client} {d : PinData}

theorem State.pinServe_of_record (record : s.record? d.tag ≠ none) :
    s.pinServe client d = (s, .plain .notFree) :=
  if_pos (Option.isSome_iff_ne_none.2 record)

variable (noRecord : s.record? d.tag = none)
include noRecord

theorem State.pinServe_of_no_blank (spent : s.blankSlot? = none) :
    s.pinServe client d = (s, .plain .pinsFull) := by
  simp [State.pinServe, noRecord, spent]

variable {k : PinSlot} (blank : s.blankSlot? = some k)
include blank

theorem State.pinServe_of_busy (busy : ¬ s.storeFree = true) :
    s.pinServe client d = (s, .plain .nvBusy) := by
  simp [State.pinServe, noRecord, blank, busy]

variable (free : s.storeFree = true)
include free

theorem State.pinServe_of_full (full : s.freeRecords = 0) :
    s.pinServe client d = (s, .plain .tableFull) := by
  simp [State.pinServe, noRecord, blank, free, full]

variable (notFull : s.freeRecords ≠ 0)
include notFull

theorem State.pinServe_of_no_lease (held : s.freeLease? = none) :
    s.pinServe client d = (s, .plain .leaseFull) := by
  simp [State.pinServe, noRecord, blank, free, notFull, held]

variable {i : LeaseSlot} (lease : s.freeLease? = some i)
include lease

/-- With every other check passed, Link A's notice queue decides. -/
theorem State.pinServe_of_lease :
    s.pinServe client d =
      if (s.noticeQueue .a).hasRoom then
        (s.acceptPin client d k i, ⟨.accepted, .pin k d.tag⟩)
      else (s, .plain .noteFull) := by
  simp [State.pinServe, noRecord, blank, free, notFull, lease]

end

/-- R118: what the acceptance changes. -/
theorem State.acceptPin_eq (s : State) (client : Client) (d : PinData) (k : PinSlot)
    (i : LeaseSlot) :
    s.acceptPin client d k i = ({ s with
      leases := s.leases.set i (some ⟨stepGeneration s.leaseGens[i], d.owner,
        [⟨d.tag, .exclusive⟩], 0, none, .pinning⟩)
      leaseGens := s.leaseGens.set i (stepGeneration s.leaseGens[i])
      directory := alterRecord d.tag (fun r => { r with pin := .pinning k }) s.directory
      pinOps := s.pinOps ++ [⟨.write, k, d.tag, d.owner, i, client⟩]
      store := { s.store with
        controller := .busyPinWrite k
        slots := s.store.slots.set k ⟨.writing, d, s.store.slots[k].shown⟩ } } : State).setNotices .a
          { s.noticeQueue .a with reserved := (s.noticeQueue .a).reserved + 1 } :=
  rfl

/-! ### The row -/

/-- R117: PIN on a frame the engine has taken is answered by its rule. -/
theorem exec_pin_of_serving {s : State} {seq : Byte} {client : Client} {p : List Byte}
    (taken : s.serving .a 0x40 seq client p) (loaded : s.loading = false) (length : p.length = 4) :
    let r := rulePin s ⟨.a, client⟩ p
    exec .pin s = .next (r.1.replies .a 0x40 seq r.2.outcome r.2.payload) := by
  have served : exec .pin s = .next (s.serveRequest 0x40 rulePin .toItsEnd) := rfl
  have accepted : payloadLength? 0x40 = some p.length := by rw [length]; rfl
  rw [served, State.serveRequest_of_serving rulePin taken loaded accepted fun _ => rfl]

/-- R117: a request for a pin goes on to the checks of the tables. -/
theorem rulePin_of_request {p : List Byte} {d : PinData} (request : pinRequest? p = some d)
    (s : State) (o : Owner) : rulePin s o p = s.pinServe o.client d := by
  simp only [rulePin, request]

/-- Settles O39: the first check that fails gives the refusal, and the acceptance is R118's. -/
theorem pinIsJudgedAndAccepted : Obligations.PinIsJudgedAndAccepted := by
  intro s seq client tag link owner loaded taken refuses free room
  have row := exec_pin_of_serving taken loaded rfl
  refine ⟨fun bad => ?badParam, fun o named isLink => ?judged⟩
  case badParam =>
    simp only [rulePin, pinRequest?_of_bad bad] at row
    exact row
  case judged =>
    subst isLink
    rw [rulePin_of_request (pinRequest?_of_link named o owner)] at row
    have refused {code : OutcomeCode}
        (answer : s.pinServe client ⟨tag, o, owner⟩ = (s, .plain code)) : refuses code := by
      rw [answer] at row
      exact row
    refine ⟨fun record => refused (State.pinServe_of_record record), fun noRecord =>
      ⟨fun spent => refused (State.pinServe_of_no_blank noRecord spent), fun k blank lowest => ?_⟩⟩
    have slot := State.blankSlot?_of_lowest blank lowest
    have notFull (below : s.directory.length < 256) : s.freeRecords ≠ 0 :=
      mt State.freeRecords_eq_zero_iff.1 (Nat.not_le.2 below)
    refine ⟨fun busy => ?nvBusy, fun idle full => ?tableFull, fun idle below held => ?leaseFull,
      fun i vacant lower idle below => ?room⟩
    case nvBusy =>
      exact refused (State.pinServe_of_busy noRecord slot (mt State.storeFree_iff.1 busy))
    case tableFull =>
      exact refused (State.pinServe_of_full noRecord slot (State.storeFree_iff.2 idle)
        (State.freeRecords_eq_zero_iff.2 full))
    case leaseFull =>
      exact refused (State.pinServe_of_no_lease noRecord slot (State.storeFree_iff.2 idle)
        (notFull below) held)
    case room =>
      have answer := State.pinServe_of_lease (client := client) (d := ⟨tag, o, owner⟩) noRecord slot
        (State.storeFree_iff.2 idle) (notFull below) (State.freeLease?_of_lowest vacant lower)
      refine ⟨fun noRoom => ?noteFull, fun hasRoom => ?accepted⟩
      case noteFull =>
        rw [if_neg (mt NoticeQueue.hasRoom_iff.1 noRoom)] at answer
        exact refused answer
      case accepted =>
        rw [answer, if_pos (NoticeQueue.hasRoom_iff.2 hasRoom), State.acceptPin_eq] at row
        exact row

end Sys2Proof.Machine
end

section
/-! PROOFS. UNPIN (R121, R122): the settled pin its payload names, and its checks in their order. -/

namespace Sys2Proof.Machine

/-! ### The settled pin -/

/-- R121: a slot that is not ACTIVE, or that no record names as pinned, has no settled pin. -/
theorem State.settledPin?_of_unsettled {s : State} {k : PinSlot}
    (unsettled : s.store.slots[k].state = .active → ∀ r ∈ s.directory, r.pin ≠ .pinned k) :
    s.settledPin? k = none := by
  rw [State.settledPin?, ite_eq_right_iff]
  intro active
  have noRecord : s.directory.find? (fun r => r.pin == .pinned k) = none :=
    List.find?_eq_none.2 fun r mem => mt beq_iff_eq.1 (unsettled active r mem)
  rw [noRecord, Option.bind_none]

/-- R121: the record that names an ACTIVE slot as pinned, with its one holder (R17). -/
theorem State.settledPin?_of_settled {s : State} {k : PinSlot} {r : Record} {h : Holder}
    (active : s.store.slots[k].state = .active)
    (record : s.directory.find? (fun q => q.pin == .pinned k) = some r)
    (holder : r.holders = [h]) : s.settledPin? k = some (r, h.slot) := by
  rw [State.settledPin?, if_pos active, record, Option.bind_some, holder]
  rfl

/-! ### The rule -/

/-- R121: the payload names no slot, or one without a settled pin. -/
theorem ruleUnpin_of_unsettled {s : State} {b : Byte}
    (unsettled : ∀ k : PinSlot, k.val = b.toNat → s.settledPin? k = none) (o : Owner) :
    ruleUnpin s o [b] = (s, .plain .notFound) := by
  by_cases inside : b.toNat < 24
  case pos =>
    have slot : pinSlotAt [b] 0 = some ⟨b.toNat, inside⟩ := pinSlotAt_of_val rfl
    simp only [ruleUnpin, slot, unsettled ⟨b.toNat, inside⟩ rfl, Option.bind_some, Option.map_none]
  case neg =>
    simp only [ruleUnpin, pinSlotAt_of_le (Nat.not_lt.1 inside), Option.bind_none]

/-- R121: with a settled pin, the store and then Link A's notice queue decide. -/
theorem ruleUnpin_of_settled {s : State} {b : Byte} {k : PinSlot} {r : Record} {i : LeaseSlot}
    (names : k.val = b.toNat) (settled : s.settledPin? k = some (r, i)) (o : Owner) :
    ruleUnpin s o [b] =
      if s.storeFree then
        if (s.noticeQueue .a).hasRoom then
          (s.acceptUnpin o.client k r i, ⟨.accepted, .pin k r.tag⟩)
        else (s, .plain .noteFull)
      else (s, .plain .nvBusy) := by
  simp only [ruleUnpin, pinSlotAt_of_val names, settled, Option.bind_some, Option.map_some]
  cases s.storeFree <;> rfl

/-- R122: what the acceptance changes, for the pin's lease. -/
theorem State.acceptUnpin_of_held {s : State} {i : LeaseSlot} {x : Lease}
    (held : s.lease i = some x) (client : Client) (k : PinSlot) (r : Record) :
    s.acceptUnpin client k r i = ({ s with
      leases := s.leases.set i (some { x with state := .unpinning })
      directory := s.directory.map fun q =>
        if q.tag = r.tag then { q with pin := .unpinning k } else q
      pinOps := s.pinOps ++ [⟨.void, k, r.tag, x.owner, i, client⟩]
      store := { s.store with controller := .busyPinVoid k } } : State).setNotices .a
        { s.noticeQueue .a with reserved := (s.noticeQueue .a).reserved + 1 } := by
  have owner : s.leaseOwner i = x.owner := by rw [State.leaseOwner, held]; rfl
  rw [State.acceptUnpin, State.setLeaseState_of_held held, State.setPin_eq, owner]
  rfl

/-! ### The row -/

/-- R121: UNPIN on a frame the engine has taken is answered by its rule. -/
theorem exec_unpin_of_serving {s : State} {seq : Byte} {client : Client} {b : Byte}
    (taken : s.serving .a 0x41 seq client [b]) (loaded : s.loading = false) :
    let r := ruleUnpin s ⟨.a, client⟩ [b]
    exec .unpin s = .next (r.1.replies .a 0x41 seq r.2.outcome r.2.payload) := by
  have served : exec .unpin s = .next (s.serveRequest 0x41 ruleUnpin .toItsEnd) := rfl
  rw [served, State.serveRequest_of_serving ruleUnpin taken loaded rfl fun _ => rfl]

/-- Settles O40: the first check that fails gives the refusal, and the acceptance is R122's. -/
theorem unpinIsJudgedAndAccepted : Obligations.UnpinIsJudgedAndAccepted := by
  intro s seq client b loaded taken refuses free room
  have row := exec_unpin_of_serving taken loaded
  refine ⟨fun unsettled => ?notFound, fun k r h x names active record holder held => ?settled⟩
  case notFound =>
    rw [ruleUnpin_of_unsettled fun k names =>
      State.settledPin?_of_unsettled (unsettled k names)] at row
    exact row
  case settled =>
    rw [ruleUnpin_of_settled names (State.settledPin?_of_settled active record holder)] at row
    refine ⟨fun busy => ?nvBusy, fun idle noRoom => ?noteFull, fun idle hasRoom => ?accepted⟩
    case nvBusy =>
      rw [if_neg (mt State.storeFree_iff.1 busy)] at row
      exact row
    case noteFull =>
      rw [if_pos (State.storeFree_iff.2 idle), if_neg (mt NoticeQueue.hasRoom_iff.1 noRoom)] at row
      exact row
    case accepted =>
      rw [if_pos (State.storeFree_iff.2 idle), if_pos (NoticeQueue.hasRoom_iff.2 hasRoom),
        State.acceptUnpin_of_held held] at row
      exact row

end Sys2Proof.Machine
end

section
/-! PROOFS. The service of the completion items of pin writes and pin voids (R119, R120, R123, R124). -/

namespace Sys2Proof.Machine

/-! ### The entry in the list (R116) -/

/-- The entry of an item's slot is the first that names it. -/
theorem State.pinOp?_of_first {s : State} {before after : List PinOp} {e : PinOp}
    (list : s.pinOps = before ++ e :: after) (first : ∀ q ∈ before, q.slot ≠ e.slot) :
    s.pinOp? e.slot = some e := by
  rw [State.pinOp?, list, List.find?_eq_some_iff_append]
  exact ⟨beq_self_eq_true e.slot, before, after, rfl, fun q mem => by simpa using first q mem⟩

/-- The entry leaves the list, and the others keep their order. -/
theorem State.dropPinOp_of_first {s : State} {before after : List PinOp} {e : PinOp}
    (list : s.pinOps = before ++ e :: after) (first : ∀ q ∈ before, q.slot ≠ e.slot) :
    s.dropPinOp e.slot = { s with pinOps := before ++ after } := by
  have other (q : PinOp) (mem : q ∈ before) : ¬ (q.slot == e.slot) = true := by
    simpa using first q mem
  have named : (e.slot == e.slot) = true := beq_self_eq_true e.slot
  rw [State.dropPinOp, list, List.eraseP_append_right _ other,
    List.eraseP_cons_of_pos (p := fun q : PinOp => q.slot == e.slot) named]

/-! ### The items in service -/

/-- PIN_WRITE_COMPLETION on an item the engine has taken. -/
theorem exec_pinWriteCompletion_of_serving {s : State} {k : PinSlot} {r : StepResult}
    (taken : s.servingItem (.pinWrite k r)) :
    exec .pinWriteCompletion s = .next (s.servePinWrite k r) := by
  have inService : s.inService = some (.internal (.pinWrite k r)) := taken
  change execPinWriteCompletion s = _
  simp only [execPinWriteCompletion, inService]

/-- PIN_VOID_COMPLETION on an item the engine has taken. -/
theorem exec_pinVoidCompletion_of_serving {s : State} {k : PinSlot} {r : StepResult}
    (taken : s.servingItem (.pinVoid k r)) :
    exec .pinVoidCompletion s = .next (s.servePinVoid k r) := by
  have inService : s.inService = some (.internal (.pinVoid k r)) := taken
  change execPinVoidCompletion s = _
  simp only [execPinVoidCompletion, inService]

section
variable {s : State} {k : PinSlot} {e : PinOp} (entry : s.pinOp? k = some e)
include entry

theorem State.servePinWrite_good : s.servePinWrite k .good = (s.pinWritten e).endItem := by
  simp only [State.servePinWrite, entry]

theorem State.servePinWrite_failed : s.servePinWrite k .failed = (s.pinWriteFailed e).endItem := by
  simp only [State.servePinWrite, entry]

theorem State.servePinVoid_good : s.servePinVoid k .good = (s.pinVoided e).endItem := by
  simp only [State.servePinVoid, entry]

theorem State.servePinVoid_failed : s.servePinVoid k .failed = (s.pinVoidFailed e).endItem := by
  simp only [State.servePinVoid, entry]

end

/-! ### What becomes of the pin -/

section
variable {s : State} {before after : List PinOp} {e : PinOp}
  (list : s.pinOps = before ++ e :: after) (first : ∀ q ∈ before, q.slot ≠ e.slot)
include list first

/-- The tables after an operation that gives the pin up: the lease, the pin state and the entry go. -/
theorem State.unpinned_of_first :
    ((s.removeLease e.leaseSlot).setPin e.tag .unpinned).dropPinOp e.slot =
      { s.removeLease e.leaseSlot with
        directory := (s.removeLease e.leaseSlot).directory.map fun r =>
          if r.tag = e.tag then { r with pin := .unpinned } else r
        pinOps := before ++ after } := by
  have kept : (s.removeLease e.leaseSlot).pinOps = before ++ e :: after :=
    (s.removeLease_pinOps e.leaseSlot).trans list
  rw [State.setPin_eq, State.dropPinOp_of_first (by exact kept) first]

/-- R120: the lease and the pin state are given up. -/
theorem State.pinWriteFailed_of_first :
    s.pinWriteFailed e = (({ s.removeLease e.leaseSlot with
      directory := (s.removeLease e.leaseSlot).directory.map fun r =>
        if r.tag = e.tag then { r with pin := .unpinned } else r
      pinOps := before ++ after } : State).postReserved .a
        (.pinFailed e.client e.slot e.tag)).passAndRetire := by
  rw [State.pinWriteFailed, State.unpinned_of_first list first]
  rfl

/-- R123: the lease and the pin state are removed. -/
theorem State.pinVoided_of_first :
    s.pinVoided e = ((({ s.removeLease e.leaseSlot with
      directory := (s.removeLease e.leaseSlot).directory.map fun r =>
        if r.tag = e.tag then { r with pin := .unpinned } else r
      pinOps := before ++ after } : State).postReserved .a
        (.unpinDone e.client e.slot e.tag)).postUnreserved e.owner.link
          (.pinReleased e.owner.client e.tag e.slot)).passAndRetire := by
  rw [State.pinVoided, State.unpinned_of_first list first]
  rfl

variable {x : Lease} (held : s.lease e.leaseSlot = some x)
include held

/-- R119: the lease is PINNED, and the one exclusive holder of its tag. -/
theorem State.pinWritten_of_first :
    s.pinWritten e = (({ s with
      leases := s.leases.set e.leaseSlot (some { x with state := .pinned })
      directory := s.directory.map fun r =>
        if r.tag = e.tag then
          { r with holders := r.holders ++ [⟨e.leaseSlot, .exclusive⟩], pin := .pinned e.slot }
        else r
      pinOps := before ++ after } : State).postReserved .a
        (.pinDone e.client e.slot e.tag)).postUnreserved e.owner.link
          (.pinned e.owner.client e.tag e.slot) := by
  rw [State.pinWritten, State.setLeaseState_of_held held, onTags_singleton,
    State.dropPinOp_of_first (by exact list) first]
  rfl

/-- R124: lease and record are pinned again. -/
theorem State.pinVoidFailed_of_first :
    s.pinVoidFailed e = ({ s with
      leases := s.leases.set e.leaseSlot (some { x with state := .pinned })
      directory := s.directory.map fun r =>
        if r.tag = e.tag then { r with pin := .pinned e.slot } else r
      pinOps := before ++ after } : State).postReserved .a
        (.unpinFailed e.client e.slot e.tag) := by
  rw [State.pinVoidFailed, State.setLeaseState_of_held held, State.setPin_eq,
    State.dropPinOp_of_first (by exact list) first]

end

/-- Settles O18: the item finds its entry, and the operation's result decides what becomes of the pin. -/
theorem pinCompletionsSettleThePin : Obligations.PinCompletionsSettleThePin := by
  rintro s _ before after e x list rfl first held
  have entry := State.pinOp?_of_first list first
  refine ⟨fun taken => ?written, fun taken => ?writeFailed, fun taken => ?voided,
    fun taken => ?voidFailed⟩
  case written =>
    rw [exec_pinWriteCompletion_of_serving taken, State.servePinWrite_good entry,
      State.pinWritten_of_first list first held]
  case writeFailed =>
    rw [exec_pinWriteCompletion_of_serving taken, State.servePinWrite_failed entry,
      State.pinWriteFailed_of_first list first]
  case voided =>
    rw [exec_pinVoidCompletion_of_serving taken, State.servePinVoid_good entry,
      State.pinVoided_of_first list first]
  case voidFailed =>
    rw [exec_pinVoidCompletion_of_serving taken, State.servePinVoid_failed entry,
      State.pinVoidFailed_of_first list first held]

end Sys2Proof.Machine
end

section
/-! PROOFS. The ledger of a state: what Law 3 reads of it (R130), and the operations that leave it as it is. -/

namespace Sys2Proof.Machine

/-- What Law 3 reads of a state: the waits, the pin operations in flight and the notice queues. -/
structure Ledger where
  creation : List WaitSlot
  waits : Vector (Option Wait) 128
  pinOps : List PinOp
  notices : PerLink NoticeQueue

def State.ledger (s : State) : Ledger where
  creation := s.creation
  waits := s.waits
  pinOps := s.pinOps
  notices := s.notices

section
variable (s : State)

/-- Operations that leave the ledger, one after the other, leave it. -/
theorem State.ledger_foldl {α : Type} {op : State → α → State}
    (keeps : ∀ t x, (op t x).ledger = t.ledger) (xs : List α) :
    (xs.foldl op s).ledger = s.ledger :=
  List.foldlRecOn (motive := fun t : State => t.ledger = s.ledger) xs op rfl
    fun t kept x _ => (keeps t x).trans kept

/-! ### Leases -/

@[simp] theorem State.ledger_removeLease (i : LeaseSlot) :
    (s.removeLease i).ledger = s.ledger := by
  rw [State.removeLease_eq]
  cases s.lease i <;> rfl

@[simp] theorem State.ledger_removeLeases (slots : List LeaseSlot) :
    (s.removeLeases slots).ledger = s.ledger :=
  s.ledger_foldl State.ledger_removeLease slots

/-- A grant touches the lease, the token unit and the directory, and no wait or notice (R27, R50). -/
theorem State.ledger_grantLease (i : LeaseSlot) (o : Owner) (set : List Entry) (d : Word) :
    (s.grantLease i o set d).ledger = s.ledger := by
  rw [State.grantLease_eq]
  rfl

/-- A pin that the load finds touches the lease table and the directory alone (R114). -/
theorem State.ledger_loadPin (x : PinSlot × PinData) : (s.loadPin x).ledger = s.ledger := by
  unfold State.loadPin
  split <;> rfl

/-! ### The clock -/

@[simp] theorem State.ledger_setCountdown (n : CountdownName) (c : Countdown) :
    (s.setCountdown n c).ledger = s.ledger := by cases n <;> rfl

theorem State.ledger_appendClockItem (n : CountdownName) :
    (s.appendClockItem n).ledger = s.ledger := s.ledger_setCountdown n _

theorem State.ledger_appendIfRunOut (n : CountdownName) :
    (s.appendIfRunOut n).ledger = s.ledger := by
  unfold State.appendIfRunOut
  split
  · exact s.ledger_appendClockItem n
  · rfl

theorem State.ledger_clearMark (n : CountdownName) : (s.clearMark n).ledger = s.ledger :=
  (State.ledger_appendIfRunOut _ n).trans (s.ledger_setCountdown n _)

theorem State.ledger_tickClock : s.tickClock.ledger = s.ledger :=
  State.ledger_foldl _ State.ledger_appendClockItem s.dueAtTick

/-! ### The store, the token unit and the arbiter -/

theorem State.ledger_demandToken : s.demandToken.ledger = s.ledger := by
  rw [State.demandToken_eq]
  rfl

theorem State.ledger_endOperation : s.endOperation.ledger = s.ledger := by
  rw [State.endOperation_eq]
  rfl

theorem State.ledger_arbitrate : s.arbitrate.ledger = s.ledger := by
  rw [State.arbitrate_eq]
  rfl

end

end Sys2Proof.Machine
end

section
/-! PROOFS. Law 3 (R130), over the operations: a reservation is made with its wait or its pin operation, and
once that is removed it is loose until a notice is posted into it, or it is released (R131 to R133). -/

namespace Sys2Proof.Machine

/-! ### The law with loose reservations -/

/-- Law 3 in the course of an item: on each link, besides the reservations of its waits and pin operations,
`loose` ones whose wait or pin operation is gone, and which the item has yet to use or release. -/
structure NoticeBalance (loose : Link → Nat) (s : State) : Prop where
  lists : CreationLists s
  reserved : ∀ l, (s.noticeQueue l).reserved
    = s.waitsOn l + (if l = .a then s.pinOps.length else 0) + loose l
  room : ∀ l, (s.noticeQueue l).stored.length + (s.noticeQueue l).reserved ≤ 32

/-- Between the items no reservation is loose. -/
theorem noticeLaw_iff {s : State} : NoticeLaw s ↔ NoticeBalance 0 s :=
  ⟨fun h => ⟨h.lists, h.reserved, h.room⟩, fun h => ⟨h.lists, h.reserved, h.room⟩⟩

section
variable {s t : State} {loose loose' : Link → Nat} {l : Link}

/-- The balance reads the ledger of a state alone. -/
theorem NoticeBalance.of_ledger (h : NoticeBalance loose s) (same : t.ledger = s.ledger) :
    NoticeBalance loose t := by
  simp only [State.ledger, Ledger.mk.injEq] at same
  obtain ⟨creation, waits, pinOps, notices⟩ := same
  refine ⟨h.lists.congr creation waits, ?_, ?_⟩
  · simpa only [State.noticeQueue, State.waitsOn, State.wait, creation, waits, pinOps, notices]
      using h.reserved
  · simpa only [State.noticeQueue, notices] using h.room

theorem NoticeBalance.setLink (h : NoticeBalance loose s) (l : Link) (x : LinkState) :
    NoticeBalance loose (s.setLink l x) :=
  h.of_ledger rfl

/-! ### Notice queues (R131 to R142) -/

/-- A link's queue changes: its reserved count moves with the loose reservations, and it fits. -/
theorem NoticeBalance.setNotices (h : NoticeBalance loose s) {q : NoticeQueue}
    (others : ∀ k, k ≠ l → loose' k = loose k)
    (own : q.reserved + loose l = (s.noticeQueue l).reserved + loose' l)
    (fits : q.stored.length + q.reserved ≤ 32) : NoticeBalance loose' (s.setNotices l q) where
  lists := h.lists.congr rfl rfl
  reserved k := by
    have before := h.reserved k
    change _ = s.waitsOn k + (if k = .a then s.pinOps.length else 0) + loose' k
    rw [State.noticeQueue_setNotices]
    by_cases here : k = l
    · subst here
      rw [if_pos rfl]
      omega
    · rw [if_neg here, others k here, before]
  room k := by
    rw [State.noticeQueue_setNotices]
    split
    · exact fits
    · exact h.room k

/-- A queue that keeps its reserved count and stores no more keeps the balance. -/
theorem NoticeBalance.setNotices_of_le (h : NoticeBalance loose s) {q : NoticeQueue}
    (reserved : q.reserved = (s.noticeQueue l).reserved)
    (stored : q.stored.length ≤ (s.noticeQueue l).stored.length) :
    NoticeBalance loose (s.setNotices l q) :=
  h.setNotices (fun _ _ => rfl) (by rw [reserved]) (by have := h.room l; omega)

/-- R131: a reservation is made where there is room. -/
theorem NoticeBalance.reserve (h : NoticeBalance loose s)
    (hasRoom : (s.noticeQueue l).hasRoom = true) :
    NoticeBalance (loose + Pi.single l 1) (s.reserve l) := by
  have room := NoticeQueue.hasRoom_iff.1 hasRoom
  refine h.setNotices (fun k other => by simp [other]) ?own (by dsimp only; omega)
  simp only [Pi.add_apply, Pi.single_eq_same]
  omega

/-- A loose reservation is among those that its link counts. -/
theorem NoticeBalance.reserved_pos (h : NoticeBalance (loose + Pi.single l 1) s) :
    0 < (s.noticeQueue l).reserved := by
  have counted := h.reserved l
  simp only [Pi.add_apply, Pi.single_eq_same] at counted
  omega

/-- R132: a notice takes the place of a loose reservation. -/
theorem NoticeBalance.postReserved (h : NoticeBalance (loose + Pi.single l 1) s) (n : Notice) :
    NoticeBalance loose (s.postReserved l n) := by
  have held := h.reserved_pos
  have room := h.room l
  refine h.setNotices (fun k other => by simp [other]) ?own ?fits
  case own =>
    simp only [Pi.add_apply, Pi.single_eq_same]
    omega
  case fits =>
    simp only [List.length_append, List.length_singleton]
    omega

/-- R133: a loose reservation is released. -/
theorem NoticeBalance.releaseReservation (h : NoticeBalance (loose + Pi.single l 1) s) :
    NoticeBalance loose (s.releaseReservation l) := by
  have held := h.reserved_pos
  have room := h.room l
  refine h.setNotices (fun k other => by simp [other]) ?own (by dsimp only; omega)
  simp only [Pi.add_apply, Pi.single_eq_same]
  omega

/-- R134: a notice of an unreserved kind is stored where there is room, and lost where there is none. -/
theorem NoticeBalance.postUnreserved (h : NoticeBalance loose s) (l : Link) (n : Notice) :
    NoticeBalance loose (s.postUnreserved l n) := by
  unfold State.postUnreserved
  split
  case isTrue hasRoom =>
    have room := NoticeQueue.hasRoom_iff.1 hasRoom
    refine h.setNotices (fun _ _ => rfl) rfl ?_
    simp only [List.length_append, List.length_singleton]
    omega
  case isFalse => exact h.setNotices_of_le rfl le_rfl

/-- R139: the reservations of an emptied queue are left. -/
theorem NoticeBalance.emptyNotices (h : NoticeBalance loose s) (l : Link) :
    NoticeBalance loose (s.emptyNotices l) :=
  NoticeBalance.setLink (h.setNotices_of_le (l := l)
    (q := { s.noticeQueue l with stored := [], presented := false }) rfl (Nat.zero_le _)) l _

/-- R140: with no wait and no pin operation every reservation is loose, and a link's are dropped. -/
theorem NoticeBalance.dropReservations (h : NoticeBalance loose s) (noWait : s.creation = [])
    (noPinOp : s.pinOps = []) (l : Link) :
    NoticeBalance (Function.update loose l 0) (s.dropReservations l) := by
  have counted := h.reserved l
  have room := h.room l
  simp only [State.waitsOn, noWait, noPinOp, List.countP_nil, List.length_nil, ite_self,
    Nat.zero_add] at counted
  refine h.setNotices (fun k other => by simp [other]) ?own (by dsimp only; omega)
  simp [counted]

/-! ### Waits (R45, R57, R59) -/

/-- The waits on a link, one more created (R45). -/
theorem CreationLists.waitsOn_createWait (h : CreationLists s) {w : WaitSlot}
    (free : s.wait w = none) (x : Wait) (l : Link) :
    ({ s.setWait w (some x) with creation := s.creation ++ [w] } : State).waitsOn l
      = s.waitsOn l + if l = x.owner.link then 1 else 0 := by
  have others : s.creation.countP (fun v => ((s.setWait w (some x)).wait v).any
      fun y => y.owner.link == l) = s.waitsOn l := by
    refine List.countP_congr fun v listed => ?_
    have other : v ≠ w := by
      rintro rfl
      simpa [free] using (h.live v).1 listed
    rw [State.wait_setWait, if_neg other]
  change (s.creation ++ [w]).countP (fun v => ((s.setWait w (some x)).wait v).any
    fun y => y.owner.link == l) = _
  rw [List.countP_append, others, List.countP_singleton, State.wait_setWait_self]
  simp only [Option.any_some, beq_iff_eq, eq_comm (a := l)]

/-- A new wait takes a loose reservation of its owner's link for its own (R45). -/
theorem NoticeBalance.enterWait {w : WaitSlot} {x : Wait}
    (h : NoticeBalance (loose + Pi.single x.owner.link 1) s) (free : s.wait w = none) :
    NoticeBalance loose { s.setWait w (some x) with creation := s.creation ++ [w] } where
  lists := h.lists.createWait free x
  reserved l := by
    have before := h.reserved l
    simp only [Pi.add_apply, Pi.single_apply] at before
    rw [h.lists.waitsOn_createWait free x l]
    change (s.noticeQueue l).reserved = _ + (if l = .a then s.pinOps.length else 0) + _
    omega
  room := h.room

/-- The waits on a link, one of them removed (R59). -/
theorem CreationLists.waitsOn_removeWait (h : CreationLists s) {w : WaitSlot} {x : Wait}
    (live : s.wait w = some x) (l : Link) :
    s.waitsOn l = (s.removeWait w).waitsOn l + if l = x.owner.link then 1 else 0 := by
  have listed : w ∈ s.creation := (h.live w).2 (by rw [live]; rfl)
  have others : (s.removeWait w).waitsOn l
      = (s.creation.erase w).countP fun v => (s.wait v).any fun y => y.owner.link == l := by
    rw [State.waitsOn, h.creation_removeWait, ← h.nodup.erase_eq_filter]
    refine List.countP_congr fun v left => ?_
    rw [State.wait_removeWait, if_neg (h.nodup.mem_erase_iff.1 left).1]
  rw [others, State.waitsOn, (List.perm_cons_erase listed).countP_eq, List.countP_cons, live]
  simp only [Option.any_some, beq_iff_eq, eq_comm (a := l)]

/-- A wait's removal leaves its reservation loose (R59). -/
theorem NoticeBalance.removeWait (h : NoticeBalance loose s) {w : WaitSlot} {x : Wait}
    (live : s.wait w = some x) :
    NoticeBalance (loose + Pi.single x.owner.link 1) (s.removeWait w) where
  lists := h.lists.removeWait w
  reserved l := by
    have before := h.reserved l
    have waits := h.lists.waitsOn_removeWait live l
    have pinOps : (s.removeWait w).pinOps = s.pinOps := by
      rw [State.removeWait_eq, live]
    simp only [State.noticeQueue, State.removeWait_notices, pinOps, Pi.add_apply,
      Pi.single_apply] at before ⊢
    omega
  room := by simpa only [State.noticeQueue, State.removeWait_notices] using h.room

/-- R132: the notice that ends a wait is posted into the wait's reservation. -/
theorem NoticeBalance.endWait (h : NoticeBalance loose s) {w : WaitSlot} {x : Wait}
    (live : s.wait w = some x) (removed : t.ledger = (s.removeWait w).ledger) (n : Notice) :
    NoticeBalance loose (t.postReserved x.owner.link n) :=
  ((h.removeWait live).of_ledger removed).postReserved n

theorem NoticeBalance.cancelWait (h : NoticeBalance loose s) (w : WaitSlot) :
    NoticeBalance loose (s.cancelWait w) := by
  unfold State.cancelWait
  cases live : s.wait w with
  | none => exact h
  | some x => exact (h.removeWait live).releaseReservation

theorem NoticeBalance.abortWaits (h : NoticeBalance loose s) (reason : AbortReason) :
    NoticeBalance loose (s.abortWaits reason) := by
  refine List.foldlRecOn (motive := NoticeBalance loose) s.creation _ h fun t balance w _ => ?_
  rw [State.abortWait_eq]
  cases live : t.wait w with
  | none => exact balance
  | some x => exact balance.endWait live rfl _

theorem NoticeBalance.grantWait (h : NoticeBalance loose s) {w : WaitSlot} {x : Wait}
    (live : s.wait w = some x) (i : LeaseSlot) : NoticeBalance loose (s.grantWait w x i) := by
  refine h.endWait live ?_ _
  exact State.ledger_grantLease _ i x.owner x.set x.duration

/-- The removal of waits whose reservations stay: whatever becomes loose, the removed waits are listed no
more (R182). -/
theorem NoticeBalance.foldl_removeWait (h : NoticeBalance loose s) (ws : List WaitSlot) :
    (∃ loose', NoticeBalance loose' (ws.foldl State.removeWait s))
      ∧ (∀ v ∈ (ws.foldl State.removeWait s).creation, v ∈ s.creation ∧ v ∉ ws)
      ∧ (ws.foldl State.removeWait s).pinOps = s.pinOps := by
  induction ws generalizing s loose with
  | nil => exact ⟨⟨loose, h⟩, fun v listed => ⟨listed, List.not_mem_nil⟩, rfl⟩
  | cons w rest ih =>
    have removed : (∃ loose', NoticeBalance loose' (s.removeWait w))
        ∧ (s.removeWait w).pinOps = s.pinOps := by
      cases live : s.wait w with
      | none => exact ⟨⟨loose, by simpa [State.removeWait_eq, live] using h⟩,
          by simp [State.removeWait_eq, live]⟩
      | some x => exact ⟨⟨_, h.removeWait live⟩, by simp [State.removeWait_eq, live]⟩
    obtain ⟨⟨loose', balance⟩, pinOps⟩ := removed
    obtain ⟨law, left, kept⟩ := ih balance
    refine ⟨law, fun v listed => ?_, kept.trans pinOps⟩
    obtain ⟨before, apart⟩ := left v listed
    rw [h.lists.creation_removeWait, List.mem_filter, bne_iff_ne] at before
    exact ⟨before.1, List.not_mem_cons_of_ne_of_not_mem before.2 apart⟩

/-! ### Pin operations (R116) -/

/-- The removal of a pin operation's entry leaves its reservation loose. -/
theorem NoticeBalance.dropPinOp (h : NoticeBalance loose s) {k : PinSlot} {e : PinOp}
    (entry : s.pinOp? k = some e) :
    NoticeBalance (loose + Pi.single .a 1) (s.dropPinOp e.slot) where
  lists := h.lists.congr rfl rfl
  reserved l := by
    have inList : e ∈ s.pinOps := List.mem_of_find?_eq_some entry
    have shorter : (s.pinOps.eraseP fun q => q.slot == e.slot).length = s.pinOps.length - 1 :=
      List.length_eraseP_of_mem inList (beq_self_eq_true e.slot)
    have nonempty := List.length_pos_of_mem inList
    change (s.noticeQueue l).reserved = s.waitsOn l
      + (if l = .a then (s.pinOps.eraseP fun q => q.slot == e.slot).length else 0) + _
    rw [h.reserved l, shorter, Pi.add_apply, Pi.single_apply]
    split <;> omega
  room := h.room

/-- R119 to R124: the notice that ends a pin operation is posted into its reservation. -/
theorem NoticeBalance.endPinOp (h : NoticeBalance loose s) {k : PinSlot} {e : PinOp}
    (entry : s.pinOp? k = some e) (same : t.ledger = s.ledger) (n : Notice) :
    NoticeBalance loose ((t.dropPinOp e.slot).postReserved .a n) := by
  have pinOps : t.pinOps = s.pinOps := congrArg Ledger.pinOps same
  have entry' : t.pinOp? k = some e := by rw [State.pinOp?, pinOps]; exact entry
  exact ((h.of_ledger same).dropPinOp entry').postReserved n

/-- A new entry takes a loose reservation of Link A for its own (R118, R122). -/
theorem NoticeBalance.enterPinOp (h : NoticeBalance (loose + Pi.single .a 1) s) (e : PinOp) :
    NoticeBalance loose { s with pinOps := s.pinOps ++ [e] } where
  lists := h.lists.congr rfl rfl
  reserved l := by
    have before := h.reserved l
    simp only [Pi.add_apply, Pi.single_apply] at before
    change (s.noticeQueue l).reserved = s.waitsOn l + _ + _
    rw [before, List.length_append, List.length_singleton]
    split <;> omega
  room := h.room

/-! ### The promotion pass (R52 to R55, R62) -/

theorem NoticeBalance.demandToken (h : NoticeBalance loose s) : NoticeBalance loose s.demandToken :=
  h.of_ledger s.ledger_demandToken

theorem NoticeBalance.scan (h : NoticeBalance loose s) (ws : List WaitSlot) :
    NoticeBalance loose (State.scan ws s) := by
  induction ws generalizing s with
  | nil => exact h
  | cons w rest ih =>
    cases live : s.wait w with
    | none => simpa only [State.scan, live] using ih h
    | some x =>
      rw [State.scan_cons s w rest x live]
      split
      case isFalse => exact ih h
      case isTrue =>
        split
        case h_1 => exact h
        case h_2 i _ =>
          have granted := h.grantWait live i
          split
          case isFalse => exact h.demandToken
          case isTrue =>
            split
            · exact granted.abortWaits .exhausted
            · exact ih granted

theorem NoticeBalance.settleTables (h : NoticeBalance loose s) (passRuns : Bool) :
    NoticeBalance loose (s.settleTables passRuns) := by
  refine NoticeBalance.of_ledger (s := if passRuns then s.promotionPass else s) ?_ rfl
  split
  · exact h.scan s.creation
  · exact h

/-! ### The engine and its items -/

theorem NoticeBalance.arbitrate (h : NoticeBalance loose s) : NoticeBalance loose s.arbitrate :=
  h.of_ledger s.ledger_arbitrate

theorem NoticeBalance.endItem (h : NoticeBalance loose s) : NoticeBalance loose s.endItem :=
  NoticeBalance.arbitrate (h.of_ledger rfl)

theorem NoticeBalance.endOperation (h : NoticeBalance loose s) :
    NoticeBalance loose s.endOperation :=
  h.of_ledger s.ledger_endOperation

/-! ### Windows (R137, R138, R161 to R169) -/

theorem NoticeBalance.fetchDiscard (h : NoticeBalance loose s) (l : Link) (code : Byte) :
    NoticeBalance loose (s.fetchDiscard l code) := by
  unfold State.fetchDiscard State.discardNotice State.discardResponse
  split
  case isFalse => exact h
  case isTrue =>
    split
    case isTrue =>
      split
      · exact h.setNotices_of_le rfl (by simp)
      · exact h
    case isFalse =>
      split
      · exact h.setLink l _
      · exact h

theorem NoticeBalance.markHead (h : NoticeBalance loose s) (l : Link) (code : Byte) :
    NoticeBalance loose (s.markHead l code) := by
  unfold State.markHead
  split
  · exact h.setNotices_of_le rfl le_rfl
  · exact h.setLink l _

theorem NoticeBalance.shiftPresentation (h : NoticeBalance loose s) (l : Link) (code : Byte)
    (stream : List Byte) (shifted : Nat) (isHead : Bool) (n : Nat) :
    NoticeBalance loose (s.shiftPresentation l code stream shifted isHead n) := by
  unfold State.shiftPresentation
  split
  · exact (h.setLink l _).markHead l code
  · exact h.setLink l _

theorem NoticeBalance.collect (h : NoticeBalance loose s) (l : Link) (status : Byte)
    (old new : List Byte) : NoticeBalance loose (s.collect l status old new) := by
  have kept (x : LinkState) : NoticeBalance loose (s.setLink l x) := h.setLink l x
  simp only [State.collect]
  split
  case h_1 =>
    split
    case isTrue =>
      split
      · exact (((kept _).setLink l _).fetchDiscard l _).shiftPresentation l _ _ _ _ _
      · exact (kept _).setLink l _
    case isFalse =>
      split
      · exact (kept _).setLink l _
      · exact kept _
  all_goals exact kept _

theorem NoticeBalance.receiveBytes (h : NoticeBalance loose s) (l : Link) (new : List Byte) :
    NoticeBalance loose (s.receiveBytes l new) := by
  unfold State.receiveBytes
  split
  case h_3 => exact h.collect l _ _ new
  case h_4 => exact h.shiftPresentation l _ _ _ _ _
  case h_5 => exact h.setLink l _
  all_goals exact h

theorem NoticeBalance.selectRises (h : NoticeBalance loose s) (l : Link) :
    NoticeBalance loose (s.selectRises l) := by
  unfold State.selectRises
  split
  case h_1 => split <;> exact h.setLink l _
  all_goals exact h.setLink l _

theorem NoticeBalance.windowOf (h : NoticeBalance loose s) (l : Link) (w : Segment)
    (ok : Byte → Bool) : NoticeBalance loose (s.windowOf l w ok) := by
  have falls : NoticeBalance loose (if w.falls then s.selectFalls l else s) := by
    split
    · exact h.setLink l _
    · exact h
  have received := falls.receiveBytes l w.bytes
  unfold State.windowOf State.runSegment
  split
  case isFalse => exact h
  case isTrue =>
    refine NoticeBalance.arbitrate ?_
    split
    · exact received.selectRises l
    · exact received

end

end Sys2Proof.Machine
end

section
/-! PROOFS. Every command keeps Law 3 (R130): the requests, by the preamble and their rules; the items of the
work list; the store, the clock, the windows and the resets. -/

namespace Sys2Proof.Machine

section
variable {s : State}

/-! ### Requests (R145, R153, R155) -/

/-- The rule of a request leaves no reservation loose where none was. -/
def RuleBalances (rule : RequestRule) : Prop :=
  ∀ s o p, NoticeBalance 0 s → NoticeBalance 0 (rule s o p).1

/-- A request that the preamble refuses changes nothing, and one that it passes is judged by its rule. -/
theorem NoticeBalance.judge (h : NoticeBalance 0 s) {rule : RequestRule} (balances : RuleBalances rule)
    (l : Link) (f : Frame) : NoticeBalance 0 (s.judge rule l f).1 := by
  unfold State.judge
  split
  · exact h
  · exact balances s _ _ h

/-- A request row keeps the law when its rule does; the response, queued or held back, changes nothing of
it. -/
theorem NoticeBalance.serveCodes (h : NoticeBalance 0 s) (ok : Byte → Bool) {rule : RequestRule}
    (balances : RuleBalances rule) (extent : Extent) :
    NoticeBalance 0 (s.serveCodes ok rule extent) := by
  have respond {t : State} (balance : NoticeBalance 0 t) (l : Link) (r : Response) :
      NoticeBalance 0 (t.respond l r) := (balance.setLink l _).endItem
  unfold State.serveCodes
  split
  case h_1 l f _ =>
    have judged := h.judge balances l f
    split
    case isFalse => exact h
    case isTrue =>
      cases extent with
      | toItsEnd => exact respond judged l _
      | toItsResponse => exact judged.of_ledger rfl
  case h_2 l r _ =>
    cases extent with
    | toItsResponse => exact h
    | toItsEnd =>
      dsimp only
      split
      · exact respond h l r
      · exact h
  all_goals exact h

/-! ### The requests that read or set up (R14, R31, R38, R68, R97, R128, R173, R174, R185) -/

theorem ruleQuery_balances : RuleBalances ruleQuery := by
  intro s o p h
  unfold ruleQuery
  split <;> exact h

theorem ruleCheck_balances : RuleBalances ruleCheck := by
  intro s o p h
  simp only [ruleCheck]
  split <;> exact h

theorem ruleList_balances : RuleBalances ruleList := by
  intro s o p h
  unfold ruleList
  split <;> exact h

theorem ruleCaps_balances : RuleBalances ruleCaps := fun _ _ _ h => h

theorem rulePinTable_balances : RuleBalances rulePinTable := by
  intro s o p h
  unfold rulePinTable
  split <;> exact h

theorem ruleLinkConfig_balances : RuleBalances ruleLinkConfig := by
  intro s o p h
  unfold ruleLinkConfig
  split
  · exact h
  · exact h.setLink o.link _

/-- The clear of STATUS is of the counters, the lost one among them (R142, R174). -/
theorem ruleStatus_balances : RuleBalances ruleStatus := by
  intro s o p h
  unfold ruleStatus
  split
  case h_1 => exact h
  case h_2 clears _ =>
    cases clears with
    | false => exact h
    | true => exact (h.setLink o.link _).setNotices_of_le rfl le_rfl

theorem ruleSetTick_balances : RuleBalances ruleSetTick := by
  intro s o p h
  simp only [ruleSetTick]
  split
  · exact h
  · exact h.of_ledger rfl

theorem ruleRenew_balances : RuleBalances ruleRenew := by
  intro s o p h
  unfold ruleRenew
  split
  · exact h
  · exact h.of_ledger (State.ledger_setCountdown _ _ _)

/-! ### The requests that free leases and waits (R33, R36, R57, R176 to R183) -/

theorem ruleRelease_balances : RuleBalances ruleRelease := by
  intro s o p h
  unfold ruleRelease
  split
  · exact h
  · exact (h.of_ledger (s.ledger_removeLease _)).settleTables true

theorem ruleDowngrade_balances : RuleBalances ruleDowngrade := by
  intro s o p h
  unfold ruleDowngrade
  split
  · exact h
  · refine NoticeBalance.settleTables ?_ true
    exact h.of_ledger rfl

theorem ruleCancel_balances : RuleBalances ruleCancel := by
  intro s o p h
  unfold ruleCancel
  split
  · exact h
  · exact (h.cancelWait _).settleTables true

theorem NoticeBalance.revokeLease (h : NoticeBalance 0 s) (tag : Tag) (i : LeaseSlot) :
    NoticeBalance 0 (State.revokeLease tag s i) := by
  unfold State.revokeLease
  split
  · exact h
  · exact (h.of_ledger (s.ledger_removeLease i)).postUnreserved _ _

theorem ruleRevoke_balances : RuleBalances ruleRevoke := by
  intro s o p h
  simp only [ruleRevoke]
  split
  · exact h
  · exact NoticeBalance.settleTables (List.foldlRecOn (motive := NoticeBalance 0) _ _ h
      fun _ balance i _ => balance.revokeLease _ i) _

theorem NoticeBalance.detachOwners (h : NoticeBalance 0 s) (p : Owner → Bool) :
    NoticeBalance 0 (s.detachOwners p) :=
  List.foldlRecOn (motive := NoticeBalance 0) (s.waitsOf p) _ (h.of_ledger (s.ledger_removeLeases _))
    fun _ balance w _ => balance.cancelWait w

theorem ruleDetach_balances : RuleBalances ruleDetach := by
  intro s o p h
  unfold ruleDetach
  split
  case h_1 => exact h
  case h_2 => exact (h.detachOwners _).settleTables _
  case h_3 => exact ((h.detachOwners _).emptyNotices _).settleTables _

theorem ruleForceDetach_balances : RuleBalances ruleForceDetach := by
  intro s o p h
  unfold ruleForceDetach
  split
  · exact h
  · exact (((h.detachOwners _).emptyNotices _).postUnreserved _ _).settleTables _

/-! ### CLEAR (R182, R183) -/

/-- No wait is left, and no reservation but the loose ones of those removed (R182). -/
theorem NoticeBalance.clearTables (h : NoticeBalance 0 s) :
    (∃ loose, NoticeBalance loose s.clearTables)
      ∧ s.clearTables.creation = [] ∧ s.clearTables.pinOps = s.pinOps := by
  have leases := s.ledger_removeLeases (s.activeLeases fun _ _ => true)
  obtain ⟨balance, left, pinOps⟩ := (h.of_ledger leases).foldl_removeWait (s.liveWaits fun _ => true)
  refine ⟨balance, List.eq_nil_iff_forall_not_mem.2 fun v listed => ?_,
    pinOps.trans (congrArg Ledger.pinOps leases)⟩
  obtain ⟨before, apart⟩ := left v listed
  have creation : (s.removeLeases _).creation = s.creation := congrArg Ledger.creation leases
  have listed : v ∈ s.creation := creation ▸ before
  refine apart (List.mem_filter.2 ⟨listed, ?_⟩)
  obtain ⟨x, live⟩ := Option.isSome_iff_exists.1 ((h.lists.live v).1 listed)
  rw [live]
  rfl

/-- The reservations of every link whose queue is cleared are dropped (R140, R183). -/
theorem NoticeBalance.foldl_clearNotices {loose : Link → Nat} (h : NoticeBalance loose s)
    (noWait : s.creation = []) (noPinOp : s.pinOps = []) (client : Client) (ls : List Link) :
    NoticeBalance (fun l => if l ∈ ls then 0 else loose l)
      (ls.foldl (State.clearNotices client) s) := by
  induction ls generalizing s loose with
  | nil => simpa using h
  | cons l rest ih =>
    have dropped := ((h.emptyNotices l).dropReservations noWait noPinOp l).postUnreserved l
      (.cleared client)
    have cleared := ih dropped (by simpa [State.clearNotices] using noWait)
      (by simpa [State.clearNotices] using noPinOp)
    have reached : (fun k => if k ∈ rest then 0 else Function.update loose l 0 k)
        = fun k => if k ∈ l :: rest then 0 else loose k := by
      funext k
      by_cases here : k = l <;> simp [here]
    rwa [reached] at cleared

/-- CLEAR leaves no reservation on any link, and no wait or pin operation for one to belong to. -/
theorem ruleClear_balances : RuleBalances ruleClear := by
  intro s o p h
  unfold ruleClear
  split
  case isTrue => exact h
  case isFalse idle =>
    obtain ⟨⟨loose, balance⟩, noWait, pinOps⟩ := h.clearTables
    have noPinOp : s.clearTables.pinOps = [] := pinOps.trans (by simpa using idle)
    have cleared := balance.foldl_clearNotices noWait noPinOp o.client [.a, .b, .c, .d]
    have none : (fun l => if l ∈ [Link.a, .b, .c, .d] then 0 else loose l) = 0 := by
      funext l
      cases l <;> rfl
    rw [none] at cleared
    exact cleared.settleTables true

/-! ### PIN and UNPIN (R117, R118, R121, R122) -/

theorem NoticeBalance.acceptPin (h : NoticeBalance 0 s)
    (hasRoom : (s.noticeQueue .a).hasRoom = true) (client : Client) (d : PinData) (k : PinSlot)
    (i : LeaseSlot) : NoticeBalance 0 (s.acceptPin client d k i) :=
  ((h.reserve hasRoom).enterPinOp ⟨.write, k, d.tag, d.owner, i, client⟩).of_ledger rfl

theorem NoticeBalance.acceptUnpin (h : NoticeBalance 0 s)
    (hasRoom : (s.noticeQueue .a).hasRoom = true) (client : Client) (k : PinSlot) (r : Record)
    (i : LeaseSlot) : NoticeBalance 0 (s.acceptUnpin client k r i) :=
  ((h.reserve hasRoom).enterPinOp ⟨.void, k, r.tag, s.leaseOwner i, i, client⟩).of_ledger rfl

/-- The refusals of PIN change nothing, and its last check is for a notice slot (R117). -/
theorem NoticeBalance.pinServe (h : NoticeBalance 0 s) (client : Client) (d : PinData) :
    NoticeBalance 0 (s.pinServe client d).1 := by
  unfold State.pinServe
  split
  case isTrue => exact h
  case isFalse =>
    split
    case h_1 => exact h
    case h_2 k _ =>
      split
      case isTrue => exact h
      case isFalse =>
        split
        case isTrue => exact h
        case isFalse =>
          split
          case h_1 => exact h
          case h_2 i _ =>
            split
            case isTrue hasRoom => exact h.acceptPin hasRoom client d k i
            case isFalse => exact h

theorem rulePin_balances : RuleBalances rulePin := by
  intro s o p h
  unfold rulePin
  split
  · exact h
  · exact h.pinServe o.client _

theorem ruleUnpin_balances : RuleBalances ruleUnpin := by
  intro s o p h
  unfold ruleUnpin
  split
  case h_1 => exact h
  case h_2 k r i _ =>
    split
    case isTrue => exact h
    case isFalse =>
      split
      case isTrue hasRoom => exact h.acceptUnpin hasRoom o.client k r i
      case isFalse => exact h

/-! ### ACQUIRE (R22, R27, R29, R44, R45, R46, R62) -/

theorem NoticeBalance.acquireGrant (h : NoticeBalance 0 s) (o : Owner) (r : AcquireRequest)
    (i : LeaseSlot) : NoticeBalance 0 (s.acquireGrant o r i).1 := by
  have granted : NoticeBalance 0 (s.grantLease i o r.set r.duration) :=
    h.of_ledger (s.ledger_grantLease i o r.set r.duration)
  unfold State.acquireGrant State.afterGrant
  dsimp only
  split
  · exact (granted.abortWaits .exhausted).settleTables true
  · exact granted

theorem NoticeBalance.acquireNoWait (h : NoticeBalance 0 s) (set : List Entry) :
    NoticeBalance 0 (s.acquireNoWait set).1 := by
  unfold State.acquireNoWait
  split
  case h_1 => exact h
  case h_2 =>
    split
    · exact h
    · exact h.demandToken

/-- A new wait enters its table and the creation order, with one reservation on its owner's link (R45). -/
theorem State.ledger_createWait (s : State) (w : WaitSlot) (o : Owner) (r : AcquireRequest) :
    ∃ x : Wait, x.owner = o ∧ (s.createWait w o r).ledger
      = ({ (s.reserve o.link).setWait w (some x) with creation := s.creation ++ [w] } : State).ledger := by
  refine ⟨⟨stepGeneration s.waitGens[w], o, r.set, r.duration, r.limit⟩, rfl, ?_⟩
  simp only [State.createWait]
  split
  · rfl
  · exact State.ledger_setCountdown _ _ _

theorem NoticeBalance.createWait (h : NoticeBalance 0 s) {w : WaitSlot} (free : s.wait w = none)
    {o : Owner} (hasRoom : (s.noticeQueue o.link).hasRoom = true) (r : AcquireRequest) :
    NoticeBalance 0 (s.createWait w o r) := by
  obtain ⟨x, rfl, ledger⟩ := s.ledger_createWait w o r
  exact ((h.reserve hasRoom).enterWait free).of_ledger ledger

/-- A wait is made where its link has room for its notice (R44). -/
theorem NoticeBalance.acquireWait (h : NoticeBalance 0 s) (o : Owner) (r : AcquireRequest) :
    NoticeBalance 0 (s.acquireWait o r).1 := by
  unfold State.acquireWait
  split
  case h_1 => exact h
  case h_2 w found =>
    obtain ⟨free, -⟩ := State.freeWait?_eq_some found
    split
    case isFalse => exact h
    case isTrue hasRoom =>
      have waits := h.createWait free hasRoom r
      dsimp only
      split
      · exact waits.demandToken
      · exact waits

theorem ruleAcquire_balances : RuleBalances ruleAcquire := by
  intro s o p h
  unfold ruleAcquire
  split
  case h_1 => exact h
  case h_2 r _ =>
    split
    case h_1 => exact h
    case h_2 =>
      unfold State.acquireServe
      split
      case h_1 i _ => exact h.acquireGrant o r i
      case h_2 =>
        split
        · exact h.acquireNoWait r.set
        · exact h.acquireWait o r

/-! ### The items of the work list (R77, R79, R87, R88, R114, R119 to R124) -/

theorem NoticeBalance.serveExpiry (h : NoticeBalance 0 s) (i : LeaseSlot) (gen : Generation) :
    NoticeBalance 0 (s.serveExpiry i gen) := by
  refine NoticeBalance.endItem (NoticeBalance.of_ledger ?_ (State.ledger_clearMark _ _))
  split
  case h_1 => exact ((h.of_ledger (s.ledger_removeLease i)).postUnreserved _ _).settleTables true
  case h_2 => exact h

/-- The wait that times out is the live one in the item's slot (R79). -/
theorem NoticeBalance.serveTimeout (h : NoticeBalance 0 s) (w : WaitSlot) (gen : Generation) :
    NoticeBalance 0 (s.serveTimeout w gen) := by
  refine NoticeBalance.endItem (NoticeBalance.of_ledger ?_ (State.ledger_clearMark _ _))
  split
  case h_1 x due =>
    obtain ⟨live, -⟩ := State.timingOut?_eq_some_iff.1 due
    exact (h.endWait live rfl _).settleTables true
  case h_2 => exact h

theorem NoticeBalance.serveAdvance (h : NoticeBalance 0 s) (n : Nat) (r : StepResult) :
    NoticeBalance 0 (s.serveAdvance n r) := by
  have unit (u : TokenUnit) : NoticeBalance 0 { s with tokens := u } := h.of_ledger rfl
  refine (NoticeBalance.settleTables ?_ true).endItem
  cases r with
  | good => exact unit _
  | failed => exact (unit _).abortWaits .tokenFault

theorem NoticeBalance.serveLoad (h : NoticeBalance 0 s) (n : Nat)
    (active : List (PinSlot × PinData)) : NoticeBalance 0 (s.serveLoad n active) :=
  NoticeBalance.endItem (h.of_ledger (s.ledger_foldl State.ledger_loadPin active))

section
variable {k : PinSlot} {e : PinOp} (entry : s.pinOp? k = some e)
include entry

theorem NoticeBalance.pinWritten (h : NoticeBalance 0 s) : NoticeBalance 0 (s.pinWritten e) := by
  refine NoticeBalance.postUnreserved (h.endPinOp entry ?_ _) _ _
  rfl

theorem NoticeBalance.pinWriteFailed (h : NoticeBalance 0 s) :
    NoticeBalance 0 (s.pinWriteFailed e) := by
  refine NoticeBalance.settleTables (h.endPinOp entry ?_ _) true
  exact s.ledger_removeLease e.leaseSlot

theorem NoticeBalance.pinVoided (h : NoticeBalance 0 s) : NoticeBalance 0 (s.pinVoided e) := by
  refine NoticeBalance.settleTables (NoticeBalance.postUnreserved (h.endPinOp entry ?_ _) _ _) true
  exact s.ledger_removeLease e.leaseSlot

theorem NoticeBalance.pinVoidFailed (h : NoticeBalance 0 s) :
    NoticeBalance 0 (s.pinVoidFailed e) := by
  refine h.endPinOp entry ?_ _
  rfl

end

theorem NoticeBalance.servePinWrite (h : NoticeBalance 0 s) (k : PinSlot) (r : StepResult) :
    NoticeBalance 0 (s.servePinWrite k r) := by
  refine NoticeBalance.endItem ?_
  split
  case h_1 => exact h
  case h_2 e entry =>
    cases r with
    | good => exact h.pinWritten entry
    | failed => exact h.pinWriteFailed entry

theorem NoticeBalance.servePinVoid (h : NoticeBalance 0 s) (k : PinSlot) (r : StepResult) :
    NoticeBalance 0 (s.servePinVoid k r) := by
  refine NoticeBalance.endItem ?_
  split
  case h_1 => exact h
  case h_2 e entry =>
    cases r with
    | good => exact h.pinVoided entry
    | failed => exact h.pinVoidFailed entry

/-! ### Reset (R144) -/

/-- After device reset nothing waits, nothing is in flight and the notice queues are empty. -/
theorem NoticeBalance.deviceReset (cells : Cells) (unstated : Nat) (pending : List Instr) :
    NoticeBalance 0 { State.reset with cells := cells, unstated := unstated, pending := pending } where
  lists := ⟨List.nodup_nil, fun w => by simp [State.wait, State.reset]⟩
  reserved l := by cases l <;> rfl
  room l := by cases l <;> exact Nat.zero_le 32

/-! ### Every command, every step -/

/-- Every command answers a state that has the law, from every state that has it. -/
theorem NoticeBalance.exec (h : NoticeBalance 0 s) (c : Instr) :
    ∃ t, exec c s = .next t ∧ NoticeBalance 0 t := by
  cases c with
  | deviceReset tear => exact ⟨_, rfl, NoticeBalance.deviceReset _ _ _⟩
  | resetRelease low =>
    refine ⟨_, rfl, h.of_ledger ?_⟩
    split <;> rfl
  | startUpLoad =>
    refine ⟨_, rfl, ?_⟩
    split
    · exact NoticeBalance.arbitrate (h.of_ledger rfl)
    · exact h
  | tick =>
    refine ⟨_, rfl, ?_⟩
    split
    · exact h
    · exact (h.of_ledger s.ledger_tickClock).arbitrate
  | countdownReachesZero name =>
    refine ⟨_, rfl, ?_⟩
    split
    · exact h
    · exact (h.of_ledger (s.ledger_appendIfRunOut name)).arbitrate
  | requestFrame l w | statusRead l byte | fetchResponse l w | fetchDiscardResponse l w
  | fetchNotice l w | fetchDiscardNotice l w => exact ⟨_, rfl, h.windowOf _ _ _⟩
  | acquire extent => exact ⟨_, rfl, h.serveCodes _ ruleAcquire_balances extent⟩
  | renew extent => exact ⟨_, rfl, h.serveCodes _ ruleRenew_balances extent⟩
  | release extent => exact ⟨_, rfl, h.serveCodes _ ruleRelease_balances extent⟩
  | downgrade extent => exact ⟨_, rfl, h.serveCodes _ ruleDowngrade_balances extent⟩
  | cancel extent => exact ⟨_, rfl, h.serveCodes _ ruleCancel_balances extent⟩
  | query extent => exact ⟨_, rfl, h.serveCodes _ ruleQuery_balances extent⟩
  | check extent => exact ⟨_, rfl, h.serveCodes _ ruleCheck_balances extent⟩
  | list extent => exact ⟨_, rfl, h.serveCodes _ ruleList_balances extent⟩
  | detach extent => exact ⟨_, rfl, h.serveCodes _ ruleDetach_balances extent⟩
  | linkConfig extent => exact ⟨_, rfl, h.serveCodes _ ruleLinkConfig_balances extent⟩
  | status extent => exact ⟨_, rfl, h.serveCodes _ ruleStatus_balances extent⟩
  | caps extent => exact ⟨_, rfl, h.serveCodes _ ruleCaps_balances extent⟩
  | pinTable extent => exact ⟨_, rfl, h.serveCodes _ rulePinTable_balances extent⟩
  | pin extent => exact ⟨_, rfl, h.serveCodes _ rulePin_balances extent⟩
  | unpin extent => exact ⟨_, rfl, h.serveCodes _ ruleUnpin_balances extent⟩
  | revoke extent => exact ⟨_, rfl, h.serveCodes _ ruleRevoke_balances extent⟩
  | forceDetach extent => exact ⟨_, rfl, h.serveCodes _ ruleForceDetach_balances extent⟩
  | setTick extent => exact ⟨_, rfl, h.serveCodes _ ruleSetTick_balances extent⟩
  | clear extent => exact ⟨_, rfl, h.serveCodes _ ruleClear_balances extent⟩
  | unknownRequest extent => exact ⟨_, rfl, h.serveCodes _ (fun _ _ _ balance => balance) extent⟩
  | advance beginStep doneStep =>
    refine ⟨_, rfl, ?_⟩
    split
    case h_1 =>
      refine (NoticeBalance.endOperation ?_).arbitrate
      exact h.of_ledger rfl
    all_goals exact h
  | pinWrite dataStep validStep voidStep =>
    refine ⟨_, rfl, ?_⟩
    split
    case h_1 =>
      refine (NoticeBalance.endOperation ?_).arbitrate
      exact h.of_ledger rfl
    all_goals exact h
  | pinVoid voidStep =>
    refine ⟨_, rfl, ?_⟩
    split
    case h_1 =>
      refine (NoticeBalance.endOperation ?_).arbitrate
      exact h.of_ledger rfl
    all_goals exact h
  | pendingAdvanceStart =>
    refine ⟨_, rfl, ?_⟩
    split
    · exact h.endOperation.arbitrate
    · exact h
  | expiry =>
    refine ⟨_, rfl, ?_⟩
    split
    · exact h.serveExpiry _ _
    · exact h
  | timeout =>
    refine ⟨_, rfl, ?_⟩
    split
    · exact h.serveTimeout _ _
    · exact h
  | loadCompletion =>
    refine ⟨_, rfl, ?_⟩
    split
    · exact h.serveLoad _ _
    · exact h
  | advanceCompletion =>
    refine ⟨_, rfl, ?_⟩
    split
    · exact h.serveAdvance _ _
    · exact h
  | pinWriteCompletion =>
    refine ⟨_, rfl, ?_⟩
    split
    · exact h.servePinWrite _ _
    · exact h
  | pinVoidCompletion =>
    refine ⟨_, rfl, ?_⟩
    split
    · exact h.servePinVoid _ _
    · exact h
  | selectRiseAfterReset l =>
    refine ⟨_, rfl, h.of_ledger ?_⟩
    split <;> rfl

end

/-- Settles O51: a step takes the command at the front of the queue, which the law does not read, and every
command leaves each reservation with a live wait or a pin operation in flight. -/
theorem everyStepKeepsTheNoticeLaw : Obligations.EveryStepKeepsTheNoticeLaw := by
  intro s t law next
  have h := noticeLaw_iff.1 law
  unfold step at next
  split at next
  case h_1 =>
    obtain rfl := Host.Outcome.next.inj next
    exact law
  case h_2 c rest _ =>
    obtain ⟨u, answer, kept⟩ := (h.of_ledger (t := { s with pending := rest }) rfl).exec c
    obtain rfl := Host.Outcome.next.inj (next.symm.trans answer)
    exact noticeLaw_iff.2 kept

end Sys2Proof.Machine
end

section
/-! PROOFS. The common preamble (R153): the table of the request rows, the outcome of each of its steps, and
the answer to a frame that it refuses. -/

namespace Sys2Proof.Machine

/-! ### The table of the request rows (R154, R188) -/

/-- The model's accepted lengths are those of the request rows, in their order. -/
theorem payloadLengths_eq_map_requestRows :
    payloadLengths = requestRows.map fun row => (row.2.1, row.2.2.1) := rfl

/-- A code that no request row bears has no accepted length. -/
theorem payloadLength?_eq_none {code : Byte} (unknown : ∀ row ∈ requestRows, row.2.1 ≠ code) :
    payloadLength? code = none := by
  simpa [payloadLength?, payloadLengths_eq_map_requestRows] using unknown

/-- The model's two lists say of a request row's code what the row says. -/
theorem payloadLength?_and_adminCodes_of_mem_requestRows : ∀ row ∈ requestRows,
    payloadLength? row.2.1 = some row.2.2.1 ∧ adminCodes.contains row.2.1 = row.2.2.2 := by decide

/-- The command of a request row serves the requests of its code, by some rule of its own. -/
theorem exec_of_mem_requestRows : ∀ row ∈ requestRows,
    ∃ rule, ∀ s, exec row.1 s = .next (s.serveRequest row.2.1 rule .toItsEnd) := by
  simp only [requestRows, requestForms, List.map_cons, List.map_nil, List.forall_mem_cons,
    List.not_mem_nil, false_imp_iff, implies_true, and_true]
  and_intros <;> exact ⟨_, fun _ => rfl⟩

/-- The codes served while the part is loading are LINK-CONFIG's and STATUS's. -/
theorem servedWhileLoading_contains_eq_false_iff {code : Byte} :
    servedWhileLoading.contains code = false ↔ code ≠ 0x31 ∧ code ≠ 0x32 := by
  simp [servedWhileLoading]

/-! ### The steps of the preamble (R153) -/

section
variable {s : State} {l : Link} {f : Frame}

/-- While the part is loading, a code that is served later stops at the first step. -/
theorem State.preamble_of_loading (loading : s.loading = true)
    (later : servedWhileLoading.contains f.code = false) : s.preamble l f = some .notReady :=
  if_pos (by simp only [loading, later, Bool.not_false, Bool.and_self])

/-- Past its first step, the preamble goes on to the length of the payload. -/
theorem State.preamble_of_ready
    (ready : ¬ (s.loading = true ∧ servedWhileLoading.contains f.code = false)) :
    s.preamble l f =
      if payloadLength? f.code ≠ some f.payload.length then some .badRequest
      else if adminCodes.contains f.code && l != .a then some .notAdmin
      else none :=
  if_neg (by simpa only [Bool.and_eq_true, Bool.not_eq_true'] using ready)

end

/-! ### The answer to a refused frame (R155) -/

/-- A frame that the preamble refuses is answered with its outcome, by the rows of its code, and nothing
else changes. -/
theorem State.serveCodes_of_refusal {s : State} {l : Link} {code seq : Byte} {client : Client}
    {p : List Byte} {ok : Byte → Bool} {o : OutcomeCode} (rule : RequestRule)
    (taken : s.serving l code seq client p) (own : ok code = true)
    (refused : s.preamble l ⟨code, seq, client, p⟩ = some o) :
    s.serveCodes ok rule .toItsEnd = s.replies l code seq o .empty := by
  have inService : s.inService = some (.request l ⟨code, seq, client, p⟩) := taken
  simp only [State.serveCodes, inService, own, if_true, State.answerRequest,
    State.judge_of_refusal refused]
  rfl

/-- A request row on a frame of its code that the preamble refuses. -/
theorem exec_requestRow_of_refusal {c : Instr} {code : Byte} {len : Nat} {admin : Bool} {s : State}
    {l : Link} {seq : Byte} {client : Client} {p : List Byte} {o : OutcomeCode}
    (row : (c, code, len, admin) ∈ requestRows) (taken : s.serving l code seq client p)
    (refused : s.preamble l ⟨code, seq, client, p⟩ = some o) :
    exec c s = .next (s.replies l code seq o .empty) := by
  obtain ⟨rule, served⟩ := exec_of_mem_requestRows _ row
  rw [served, State.serveRequest,
    State.serveCodes_of_refusal (ok := (· == code)) rule taken (beq_self_eq_true code) refused]

/-- Settles O25: on the frame of a request row each clause's hypotheses lead the preamble to its step; a code
without an accepted length gets no further than the second. -/
theorem thePreambleRefusesInItsOrder : Obligations.ThePreambleRefusesInItsOrder := by
  intro s l seq client p
  constructor
  · intro c code len admin row taken early
    obtain ⟨length, reserved⟩ := payloadLength?_and_adminCodes_of_mem_requestRows _ row
    have early_iff : early ↔ s.loading = true ∧ servedWhileLoading.contains code = false := by
      rw [servedWhileLoading_contains_eq_false_iff]
    refine ⟨fun isEarly => ?_, fun notEarly wrongLength => ?_,
      fun notEarly rightLength isAdmin notA => ?_⟩ <;>
      refine exec_requestRow_of_refusal row taken ?_
    · obtain ⟨loading, later⟩ := early_iff.1 isEarly
      exact State.preamble_of_loading loading later
    · rw [State.preamble_of_ready (mt early_iff.2 notEarly), length, if_pos]
      simpa using Ne.symm wrongLength
    · rw [State.preamble_of_ready (mt early_iff.2 notEarly), length, rightLength, reserved, isAdmin]
      simp [notA]
  · intro code unknown taken
    have noLength := payloadLength?_eq_none unknown
    have served : exec .unknownRequest s = .next (s.serveCodes
        (fun code => (payloadLength? code).isNone) (fun t _ _ => (t, .plain .badRequest)) .toItsEnd) :=
      rfl
    have refused : s.preamble l ⟨code, seq, client, p⟩
        = some (if s.loading then .notReady else .badRequest) := by
      cases loading : s.loading with
      | true =>
        have later : code ≠ 0x31 ∧ code ≠ 0x32 := by
          constructor <;> rintro rfl <;> exact nomatch noLength
        exact State.preamble_of_loading loading (servedWhileLoading_contains_eq_false_iff.2 later)
      | false =>
        rw [State.preamble_of_ready (by simp [loading]), if_pos (by simp [noLength])]
        rfl
    have own : (payloadLength? code).isNone = true := by rw [noLength]; rfl
    rw [served, State.serveCodes_of_refusal _ taken own refused]

end Sys2Proof.Machine
end

section
/-! PROOFS. LINK-CONFIG and STATUS (R173, R174): the settings a payload spells, and the two rows, which are
served while the part is loading too (R153). -/

namespace Sys2Proof.Machine

/-! ### Settings of 0 or 1 (R173) -/

/-- A byte that spells a Boolean reads as that Boolean. -/
theorem flagAt_of_boolByte {p : List Byte} {i : Nat} {b : Bool} (spelled : byteAt p i = boolByte b) :
    flagAt p i = some b := by
  unfold flagAt
  rw [spelled]
  cases b <;> rfl

/-- A byte above 1 is no setting. -/
theorem flagAt_of_one_lt {p : List Byte} {i : Nat} (above : 1 < (byteAt p i).toNat) :
    flagAt p i = none := by
  unfold flagAt
  split
  case h_1 zero => omega
  case h_2 one => omega
  case h_3 => rfl

/-- R173: three settings of 0 or 1 leave the level to be judged. -/
theorem settingsOf?_of_flags {p : List Byte} {n r e : Bool} (first : flagAt p 0 = some n)
    (second : flagAt p 1 = some r) (fourth : flagAt p 3 = some e) :
    settingsOf? p =
      if (byteAt p 2).toNat = 0 ∨ 8 < (byteAt p 2).toNat then none
      else some ⟨n, r, (byteAt p 2).toNat, e⟩ := by
  simp only [settingsOf?, first, second, fourth]
  rfl

/-- R173: the settings that a payload within the ranges spells. -/
theorem settingsOf?_of_spelled (n r e : Bool) {level : Nat} (positive : 1 ≤ level)
    (within : level ≤ 8) :
    settingsOf? ([boolByte n, boolByte r] ++ natByte level ++ [boolByte e])
      = some ⟨n, r, level, e⟩ := by
  have read : (byteAt ([boolByte n, boolByte r] ++ natByte level ++ [boolByte e]) 2).toNat = level :=
    Nat.mod_eq_of_lt (by omega)
  rw [settingsOf?_of_flags (flagAt_of_boolByte rfl) (flagAt_of_boolByte rfl)
    (flagAt_of_boolByte rfl), read, if_neg (by omega)]

/-- R173: an enable above 1, or a level of 0 or above 8, spells no settings. -/
theorem settingsOf?_of_out_of_range {n r level e : Byte}
    (out : 1 < n.toNat ∨ 1 < r.toNat ∨ 1 < e.toNat ∨ level.toNat = 0 ∨ 8 < level.toNat) :
    settingsOf? [n, r, level, e] = none := by
  have le {i : Nat} {b : Bool} (set : flagAt [n, r, level, e] i = some b) :
      (byteAt [n, r, level, e] i).toNat ≤ 1 := by
    by_contra above
    rw [flagAt_of_one_lt (Nat.lt_of_not_le above)] at set
    cases set
  unfold settingsOf?
  split
  case h_1 first second fourth =>
    have first_le : n.toNat ≤ 1 := le first
    have second_le : r.toNat ≤ 1 := le second
    have fourth_le : e.toNat ≤ 1 := le fourth
    have badLevel : level.toNat = 0 ∨ 8 < level.toNat := by omega
    exact if_pos badLevel
  case h_2 => rfl

/-! ### Requests that are served while loading (R153) -/

/-- The preamble passes a frame of LINK-CONFIG or STATUS of the code's length, loading or not (R153). -/
theorem State.preamble_of_servedWhileLoading (s : State) (l : Link) {f : Frame}
    (served : servedWhileLoading.contains f.code = true)
    (length : payloadLength? f.code = some f.payload.length) : s.preamble l f = none := by
  have openToAll : adminCodes.contains f.code = false := by
    have own : f.code = 0x31 ∨ f.code = 0x32 := by simpa [servedWhileLoading] using served
    rcases own with code | code <;> rw [code] <;> rfl
  rw [State.preamble_of_ready (fun ⟨_, later⟩ => nomatch served.symm.trans later),
    length, openToAll]
  simp

/-- A frame that the preamble passes is answered by the request's own rule, loading or not (R145, R153,
R155). -/
theorem State.serveRequest_of_pass {s : State} {l : Link} {code seq : Byte} {client : Client}
    {p : List Byte} (rule : RequestRule) (taken : s.serving l code seq client p)
    (passes : s.preamble l ⟨code, seq, client, p⟩ = none) :
    s.serveRequest code rule .toItsEnd =
      (rule s ⟨l, client⟩ p).1.replies l code seq
        (rule s ⟨l, client⟩ p).2.outcome (rule s ⟨l, client⟩ p).2.payload := by
  have inService : s.inService = some (.request l ⟨code, seq, client, p⟩) := taken
  rw [State.serveRequest_eq, inService]
  simp only [if_true, State.answerRequest_toItsEnd, State.judge_of_pass passes]
  rfl

/-! ### The rows -/

/-- R173: LINK-CONFIG on a frame the engine has taken is answered by its rule. -/
theorem exec_linkConfig_of_serving {s : State} {l : Link} {seq : Byte} {client : Client}
    {p : List Byte} (taken : s.serving l 0x31 seq client p) (length : p.length = 4) :
    let r := ruleLinkConfig s ⟨l, client⟩ p
    exec .linkConfig s = .next (r.1.replies l 0x31 seq r.2.outcome r.2.payload) := by
  have row : exec .linkConfig s = .next (s.serveRequest 0x31 ruleLinkConfig .toItsEnd) := rfl
  have accepted : payloadLength? 0x31 = some p.length := by rw [length]; rfl
  rw [row, State.serveRequest_of_pass ruleLinkConfig taken
    (s.preamble_of_servedWhileLoading l rfl accepted)]

/-- R174: STATUS on a frame the engine has taken is answered by its rule. -/
theorem exec_status_of_serving {s : State} {l : Link} {seq : Byte} {client : Client} {option : Byte}
    (taken : s.serving l 0x32 seq client [option]) :
    let r := ruleStatus s ⟨l, client⟩ [option]
    exec .status s = .next (r.1.replies l 0x32 seq r.2.outcome r.2.payload) := by
  have row : exec .status s = .next (s.serveRequest 0x32 ruleStatus .toItsEnd) := rfl
  rw [row, State.serveRequest_of_pass ruleStatus taken
    (s.preamble_of_servedWhileLoading l rfl rfl)]

/-- R174: the rule of STATUS on an option of 0 or 1. -/
theorem ruleStatus_of_boolByte (s : State) (o : Owner) (clears : Bool) :
    ruleStatus s o [boolByte clears] =
      (if clears then s.clearStatus o.link else s, .done (.status (s.statusReport o.link))) := by
  simp only [ruleStatus, flagAt_of_boolByte (p := [boolByte clears]) (i := 0) rfl]

/-- R174: an option above 1 is refused. -/
theorem ruleStatus_of_one_lt (s : State) (o : Owner) {option : Byte} (above : 1 < option.toNat) :
    ruleStatus s o [option] = (s, .plain .badParam) := by
  simp only [ruleStatus, flagAt_of_one_lt (p := [option]) (i := 0) above]

/-- Settles O26: each row answers by its rule, which the payload's ranges decide. -/
theorem linkConfigAndStatusServeTheirLink : Obligations.LinkConfigAndStatusServeTheirLink := by
  intro s l seq client
  refine ⟨fun n r e level positive within taken => ?settings,
    fun n r level e taken outOfRange => ?refused, fun option taken => ?status⟩
  case settings =>
    have row := exec_linkConfig_of_serving taken rfl
    simp only [ruleLinkConfig, settingsOf?_of_spelled n r e positive within] at row
    exact row
  case refused =>
    have row := exec_linkConfig_of_serving taken rfl
    simp only [ruleLinkConfig, settingsOf?_of_out_of_range outOfRange] at row
    exact row
  case status =>
    intro x q unread report
    have reported : s.statusReport l = report := by
      simp only [State.statusReport, report, unread, beq_iff_eq]
      rfl
    have row := exec_status_of_serving taken
    have answered (clears : Bool) (spelled : option = boolByte clears) :
        exec .status s = .next ((if clears then s.clearStatus l else s).replies l 0x32 seq .done
          (.status report)) := by
      rw [spelled, ruleStatus_of_boolByte, reported] at row
      exact row
    refine ⟨fun zero => answered false zero, fun one => answered true one, fun above => ?_⟩
    rw [ruleStatus_of_one_lt s _ above] at row
    exact row

end Sys2Proof.Machine
end

section
/-! PROOFS. Request windows given whole (R162 to R165): what the link receives between select's fall and its
rise, and the judgement of the window's bytes. -/

namespace Sys2Proof.Machine

/-! ### The judgement of the bytes (R162 to R164) -/

/-- The two bytes of a word determine it. -/
theorem wordBytes_inj {v w : Word} : wordBytes v = wordBytes w ↔ v = w := by
  refine ⟨fun same => ?_, congrArg wordBytes⟩
  have read (w : Word) : wordAt (wordBytes w) 0 = w := by simpa using wordAt_wordBytes w []
  rw [← read v, same, read w]

/-- A window framed as R162 says is a good frame or a CRC error (R163). -/
theorem LinkState.judgeFrame_of_framed (x : LinkState) (code seq client : Byte)
    {payload : List Byte} (check : Word) (short : payload.length ≤ 24) :
    let head := [code, seq, client, BitVec.ofNat 8 payload.length] ++ payload
    x.judgeFrame (head ++ wordBytes check) =
      if check = crc head then x.offerFrame ⟨code, seq, client, payload⟩ else x.crcError := by
  have len : (BitVec.ofNat 8 payload.length).toNat = payload.length := by
    rw [BitVec.toNat_ofNat]; omega
  simp only [LinkState.judgeFrame, List.cons_append, List.nil_append, len, List.length_append,
    wordBytes_length, Config.maxPayload, short, and_self, if_true, List.take_left, List.drop_left,
    wordBytes_inj, eq_comm]

/-- A window whose length is not the one its L asks for, or whose L is above 24, is a frame error (R162). -/
theorem LinkState.judgeFrame_of_misframed (x : LinkState) {bytes : List Byte}
    (misframed : ∀ len, bytes[3]? = some len → len.toNat ≤ 24 → bytes.length ≠ len.toNat + 6) :
    x.judgeFrame bytes = x.frameError := by
  unfold LinkState.judgeFrame
  split
  case h_1 code seq client len rest =>
    refine if_neg fun ⟨short, length⟩ => misframed len rfl short ?_
    simp only [List.length_cons, length]
  case h_2 => rfl

/-- The judgement neither reads nor moves the receiver. -/
theorem LinkState.judgeFrame_receiver (x : LinkState) (r : Receiver) (bytes : List Byte) :
    { ({ x with receiver := r } : LinkState).judgeFrame bytes with receiver := x.receiver }
      = x.judgeFrame bytes := by
  have offered (f : Frame) :
      { ({ x with receiver := r } : LinkState).offerFrame f with receiver := x.receiver }
        = x.offerFrame f := by
    unfold LinkState.offerFrame
    split <;> rfl
  unfold LinkState.judgeFrame
  split
  case h_1 =>
    split
    case isTrue =>
      dsimp only
      split
      · exact offered _
      · rfl
    case isFalse => rfl
  case h_2 => rfl

/-- A good frame finds room in the FIFO (R164). -/
theorem LinkState.offerFrame_of_room {x : LinkState} (f : Frame) (room : x.fifo.length < 4) :
    x.offerFrame f = { x with fifo := x.fifo ++ [f] } := if_pos room

/-- A good frame at a full FIFO is an overrun (R164). -/
theorem LinkState.offerFrame_of_full {x : LinkState} (f : Frame) (full : 4 ≤ x.fifo.length) :
    x.offerFrame f = x.overrunError := if_neg (Nat.not_lt.2 full)

/-! ### The window (R161, R162) -/

/-- The L of a request is above 24 (R162). -/
def lengthTooLong (bytes : List Byte) : Bool :=
  bytes[3]?.any fun len => decide (Config.maxPayload < len.toNat)

/-- What the link holds while it collects the bytes of a window. -/
def LinkState.collecting (x : LinkState) (status : Byte) (bytes : List Byte) : LinkState :=
  { x with receiver := .collecting status bytes, dout := leadOut status bytes.length }

/-- A request's bytes are kept for the judgement, unless its L is above 24: then the frame error is counted
at once, and the rest of the window ignored (R162; entry 9). -/
theorem State.collect_request (s : State) (l : Link) (status : Byte) {code second : Byte}
    (rest : List Byte) (request : code ∉ fetchCodes) :
    let bytes := code :: second :: rest
    let y := (s.link l).collecting status bytes
    s.collect l status [] bytes = s.setLink l
      (if lengthTooLong bytes then { y.frameError with receiver := .ignoring code } else y) := by
  have notFetch : fetchCodes.contains code = false := by simpa using request
  simp only [State.collect, List.nil_append, notFetch, Bool.false_eq_true, if_false]
  unfold lengthTooLong
  split
  · simp only [State.link_setLink_self, State.setLink_setLink_self]; rfl
  · rfl

/-- An L above 24 asks for no length that a frame can have (R162). -/
theorem misframed_of_lengthTooLong {bytes : List Byte} (long : lengthTooLong bytes = true) :
    ∀ len, bytes[3]? = some len → len.toNat ≤ 24 → bytes.length ≠ len.toNat + 6 := by
  intro len found short
  rw [lengthTooLong, found] at long
  have above : 24 < len.toNat := of_decide_eq_true long
  omega

/-- The rise of select ends a request window with its judgement; an L above 24 is the judgement's frame
error, counted earlier (R162). -/
theorem State.selectRises_collect_request (s : State) (l : Link) (status : Byte)
    {code second : Byte} (rest : List Byte) (request : code ∉ fetchCodes) :
    let bytes := code :: second :: rest
    (s.collect l status [] bytes).selectRises l = s.setLink l
      { ((s.link l).collecting status bytes).judgeFrame bytes with receiver := .idle } := by
  dsimp only
  rw [State.collect_request s l status rest request]
  cases long : lengthTooLong (code :: second :: rest) with
  | false => simp [State.selectRises, LinkState.collecting]
  | true =>
    rw [LinkState.judgeFrame_of_misframed _ (misframed_of_lengthTooLong long)]
    simp [State.selectRises, State.setReceiver]

/-- A window given whole on an idle link, by a row whose code it meets: its bytes are received between
select's fall and its rise, and the engine decides (R161, R162). -/
theorem State.windowOf_whole {s : State} {l : Link} {bytes : List Byte} {ok : Byte → Bool}
    (running : s.resetLow = false) (idle : (s.link l).receiver = .idle)
    (meets : bytes.head?.all ok = true) :
    s.windowOf l (.whole bytes) ok =
      (((s.selectFalls l).collect l (s.statusByte l) [] bytes).selectRises l).arbitrate := by
  have fits : s.admitsSegment l (.whole bytes) = true := by
    simp [State.admitsSegment, Segment.whole, running, idle]
  have named : (s.link l).receiver.windowCode (.whole bytes) = bytes.head? := by rw [idle]; rfl
  have falls : ((s.selectFalls l).link l).receiver = .collecting (s.statusByte l) [] := by
    simp only [State.selectFalls, State.link_setLink_self]
  rw [State.windowOf, fits, named, meets]
  simp only [Bool.and_self, if_true, State.runSegment, Segment.whole, State.receiveBytes, falls]

/-- R161 to R164: a request window given whole on an idle link shifts out the status byte and then 0xFF,
is judged, and lets the engine decide. -/
theorem exec_requestFrame_whole {s : State} {l : Link} {bytes : List Byte}
    (running : s.resetLow = false) (idle : (s.link l).receiver = .idle)
    (request : ∀ b, bytes.head? = some b → b ∉ fetchCodes) (two : 2 ≤ bytes.length) :
    let out := { s.link l with
      dout := s.statusByte l :: List.replicate (bytes.length - 1) 0xFF }
    exec (.requestFrame l (.whole bytes)) s = .next (s.setLink l (out.judgeFrame bytes)).arbitrate := by
  have served (w : Segment) : exec (.requestFrame l w) s
      = .next (s.windowOf l w fun code => !fetchCodes.contains code) := rfl
  match bytes, two with
  | code :: second :: rest, _ =>
    intro out
    have notFetch : code ∉ fetchCodes := request code rfl
    have judged := LinkState.judgeFrame_receiver out
      (.collecting (s.statusByte l) (code :: second :: rest)) (code :: second :: rest)
    rw [served, State.windowOf_whole running idle (by simpa using notFetch),
      State.selectRises_collect_request _ l _ rest notFetch, ← judged,
      show out.receiver = .idle from idle]
    simp only [State.selectFalls, State.setLink_setLink_self, State.link_setLink_self]
    rfl

/-- Settles O19: the window's effect is its judgement, whose cases are those of R162 to R164. -/
theorem requestWindowsAreJudged : Obligations.RequestWindowsAreJudged := by
  intro s l bytes running idle request out leaves
  have window (two : 2 ≤ bytes.length) : leaves (out.judgeFrame bytes) :=
    exec_requestFrame_whole running idle request two
  refine ⟨fun code seq client payload check short framed => ?framed,
    fun two misframed => ?misframed⟩
  case framed =>
    have judged := window (by simp [framed])
    rw [framed, LinkState.judgeFrame_of_framed out code seq client check short] at judged
    refine ⟨fun good room => ?_, fun good full => ?_, fun bad => ?_⟩
    · rwa [if_pos good, LinkState.offerFrame_of_room (x := out) _ room] at judged
    · rwa [if_pos good, LinkState.offerFrame_of_full (x := out) _ full] at judged
    · rwa [if_neg bad] at judged
  case misframed =>
    have judged := window two
    rwa [LinkState.judgeFrame_of_misframed out misframed] at judged

end Sys2Proof.Machine
end

section
/-! PROOFS. REVOKE (R176): the ACTIVE holders of a tag, and the row on a frame the engine has taken. -/

namespace Sys2Proof.Machine

/-! ### The end of an item's work on the tables (R11, R52) -/

/-- The pass runs unless nothing was removed; the emptied records are retired in either case (R11, R52). -/
theorem State.settleTables_eq_ite (s : State) {passRuns : Bool} {nothing : Prop} [Decidable nothing]
    (skips : passRuns = false ↔ nothing) :
    s.settleTables passRuns = if nothing then s.retire else s.passAndRetire := by
  cases passRuns with
  | false => rw [if_pos (skips.1 rfl)]; rfl
  | true => rw [if_neg (mt skips.2 nofun)]; rfl

/-! ### The holders removed (R176) -/

/-- R176: the leases that REVOKE collects stand in the tag's holder list and are ACTIVE. -/
theorem State.revocable_eq (s : State) (tag : Tag) :
    s.revocable tag = (List.finRange 256).filter fun i =>
      (s.view tag).holders.any (fun h => h.slot == i)
        && (s.lease i).any fun x => x.state == .active := by
  unfold State.revocable State.activeLeases
  congr 1
  funext i
  cases s.lease i with
  | none => exact (Bool.and_false _).symm
  | some x => exact Bool.and_comm _ _

/-- R176: a lease is removed whole, and its owner's link told. -/
theorem State.revokeLease_of_held {s : State} {i : LeaseSlot} {x : Lease} (tag : Tag)
    (held : s.lease i = some x) :
    s.revokeLease tag i = (s.removeLease i).postUnreserved x.owner.link
      (.revoked x.owner.client ⟨i, x.gen⟩ x.token tag) := by
  simp only [State.revokeLease, held]

/-- R176: a free slot has nothing to revoke. -/
theorem State.revokeLease_of_free {s : State} {i : LeaseSlot} (tag : Tag) (free : s.lease i = none) :
    s.revokeLease tag i = s := by
  simp only [State.revokeLease, free]

/-! ### The row -/

/-- R176: the rule of REVOKE on the tag its payload names. -/
theorem ruleRevoke_wordBytes (s : State) (o : Owner) (tag : Tag) :
    let slots := s.revocable tag
    ruleRevoke s o (wordBytes tag) =
      if tag = 0 then (s, .plain .badParam)
      else ((slots.foldl (State.revokeLease tag) s).settleTables (!slots.isEmpty),
        .done (.revoked slots.length)) := by
  have field : wordAt (wordBytes tag) 0 = tag := by simpa using wordAt_wordBytes tag []
  simp only [ruleRevoke, field]

/-- R176: REVOKE on a frame the engine has taken. -/
theorem exec_revoke_of_serving {s : State} {seq : Byte} {client : Client} {tag : Tag}
    (taken : s.serving .a 0x42 seq client (wordBytes tag)) (loaded : s.loading = false) :
    let slots := s.revocable tag
    exec .revoke s = .next
      (if tag = 0 then s.replies .a 0x42 seq .badParam .empty
      else ((slots.foldl (State.revokeLease tag) s).settleTables (!slots.isEmpty)).replies
        .a 0x42 seq .done (.revoked slots.length)) := by
  have served : exec .revoke s = .next (s.serveRequest 0x42 ruleRevoke .toItsEnd) := rfl
  rw [served, State.serveRequest_of_serving ruleRevoke taken loaded rfl fun _ => rfl,
    ruleRevoke_wordBytes]
  split <;> rfl

/-- Settles O41: the row removes the leases it collects, one after the other, and the pass runs when there
was one. -/
theorem revokeRemovesTheActiveHolders : Obligations.RevokeRemovesTheActiveHolders := by
  intro s seq client tag loaded taken slots revoke revoked
  have collected : s.revocable tag = slots := s.revocable_eq tag
  have removal : State.revokeLease tag = revoke := by
    funext u i
    cases held : u.lease i with
    | none => simp only [State.revokeLease_of_free tag held, revoke, held]
    | some x => simp only [State.revokeLease_of_held tag held, revoke, held]
  rw [exec_revoke_of_serving taken loaded, collected, removal,
    State.settleTables_eq_ite (nothing := slots = []) _ (by simp)]
  by_cases empty : slots = []
  · simp only [empty, if_true, List.foldl_nil, List.length_nil]
  · simp only [empty, if_false, revoked]

end Sys2Proof.Machine
end

section
/-! PROOFS. DETACH and FORCE-DETACH (R178 to R180): whether a pass runs, what each payload asks for, and the
two rows on a frame the engine has taken. -/

namespace Sys2Proof.Machine

/-- R52, R179: a detach runs the pass unless it found no lease and no wait to remove. -/
theorem State.settleTables_detachRemoves (s u : State) (p : Owner → Bool) :
    u.settleTables (s.detachRemoves p) =
      if s.leasesOf p = [] ∧ s.waitsOf p = [] then u.retire else u.passAndRetire :=
  u.settleTables_eq_ite (by simp [State.detachRemoves])

/-! ### What the payload asks for -/

/-- R178: scope 0 detaches the client, scope 1 the link, and another scope is refused. -/
theorem ruleDetach_singleton (s : State) (o : Owner) (scope : Byte) :
    ruleDetach s o [scope] =
      if scope = 0 then s.detachClient o
      else if scope = 1 then s.detachLink o.link
      else (s, .plain .badParam) := by
  by_cases client : scope = 0
  · rw [if_pos client, client]; rfl
  · by_cases link : scope = 1
    · rw [if_neg client, if_pos link, link]; rfl
    · have other : 1 < (byteAt [scope] 0).toNat := by
        rw [byteAt_cons_zero]
        bv_omega
      simp only [ruleDetach, flagAt_of_one_lt other, client, link, if_false]

/-- R180: a link's code names the link to detach. -/
theorem ruleForceDetach_byte (s : State) (o : Owner) (l : Link) :
    ruleForceDetach s o [Link.byte l] = s.forceDetach o.client l := by
  simp only [ruleForceDetach, linkAt_byte]

/-- R180: a byte that is no link's code is refused. -/
theorem ruleForceDetach_of_lt (s : State) (o : Owner) {b : Byte} (above : 3 < b.toNat) :
    ruleForceDetach s o [b] = (s, .plain .badParam) := by
  simp only [ruleForceDetach, linkAt_of_lt above]

/-! ### The rows -/

/-- R178: DETACH on a frame the engine has taken is answered by its rule. -/
theorem exec_detach_of_serving {s : State} {l : Link} {seq : Byte} {client : Client} {scope : Byte}
    (taken : s.serving l 0x30 seq client [scope]) (loaded : s.loading = false) :
    let r := ruleDetach s ⟨l, client⟩ [scope]
    exec .detach s = .next (r.1.replies l 0x30 seq r.2.outcome r.2.payload) := by
  have served : exec .detach s = .next (s.serveRequest 0x30 ruleDetach .toItsEnd) := rfl
  rw [served, State.serveRequest_of_serving ruleDetach taken loaded rfl nofun]

/-- R180: FORCE-DETACH on a frame the engine has taken is answered by its rule. -/
theorem exec_forceDetach_of_serving {s : State} {seq : Byte} {client : Client} {b : Byte}
    (taken : s.serving .a 0x43 seq client [b]) (loaded : s.loading = false) :
    let r := ruleForceDetach s ⟨.a, client⟩ [b]
    exec .forceDetach s = .next (r.1.replies .a 0x43 seq r.2.outcome r.2.payload) := by
  have served : exec .forceDetach s = .next (s.serveRequest 0x43 ruleForceDetach .toItsEnd) := rfl
  rw [served, State.serveRequest_of_serving ruleForceDetach taken loaded rfl fun _ => rfl]

/-- Settles O42: each row is answered by its rule, which the payload decides, and the pass runs when
something was removed. -/
theorem detachesRemoveTheirOwners : Obligations.DetachesRemoveTheirOwners := by
  intro s seq client loaded leases waits removed settle counts
  have settled (p : Owner → Bool) (u : State) : u.settleTables (s.detachRemoves p) = settle p u :=
    s.settleTables_detachRemoves u p
  refine ⟨fun l scope taken => ?detach, fun b taken =>
    ⟨fun l named => ?forced, fun above => ?refused⟩⟩
  case detach =>
    intro one all
    rw [exec_detach_of_serving taken loaded, ruleDetach_singleton]
    simp only [State.detachClient, State.detachLink, settled]
    by_cases client : scope = 0
    · simp only [if_pos client]; rfl
    · by_cases link : scope = 1
      · simp only [if_neg client, if_pos link]; rfl
      · simp only [if_neg client, if_neg link]; rfl
  case forced =>
    intro all
    subst named
    rw [exec_forceDetach_of_serving taken loaded, ruleForceDetach_byte]
    simp only [State.forceDetach, settled]
    rfl
  case refused =>
    rw [exec_forceDetach_of_serving taken loaded, ruleForceDetach_of_lt s _ above]
    rfl

end Sys2Proof.Machine
end

section
/-! PROOFS. What a command does, cut into moves: the laws of the tables, the clock, the token unit and the pins
(R6, R11, R48, R74, R94) are shown once for each move, and every command is a course of moves. -/

namespace Sys2Proof.Machine

/-! ### What the laws do not read -/

/-- The state with the fields that no law of the tables reads at fixed values, and the item in service back at
the head of the list. -/
def State.bare (s : State) : State :=
  { s with
    resetLow := false
    links := State.reset.links
    notices := State.reset.notices
    arbiter := .internal
    inService := none
    workList := s.items
    leaseGens := State.reset.leaseGens
    waitGens := State.reset.waitGens
    dividerInForce := 0
    dividerRequested := 0
    store := { s.store with serial := 0 }
    cells := { s.cells with pins := State.reset.cells.pins, serial := 0 }
    unstated := 0 }

/-- The engine's service and every link's FIFO and response queue are as they were. -/
structure Undisturbed (s t : State) : Prop where
  inService : t.inService = s.inService
  queues : ∀ l, (t.link l).fifo = (s.link l).fifo ∧ (t.link l).responses = (s.link l).responses

/-- A change that no law of the tables sees, and that leaves the service and the links' queues. -/
structure Quiet (s t : State) : Prop extends Undisturbed s t where
  bare : t.bare = s.bare

/-- The state with the engine free (R149). -/
def State.freed (s : State) : State := { s with inService := none }

/-! ### The moves -/

/-- What the work of an item on the tables is made of; a record that it empties stands until retirement
(R11). -/
inductive TableMove : State → State → Prop
  | quiet {s t : State} (unseen : Quiet s t) : TableMove s t
  | removeLease (s : State) (i : LeaseSlot) : TableMove s (s.removeLease i)
  | removeWait (s : State) (w : WaitSlot) : TableMove s (s.removeWait w)
  | shareLease {s : State} {i : LeaseSlot} {x : Lease} (held : s.lease i = some x)
      (active : x.state = .active) : TableMove s (s.shareLease i x)
  | grant {s : State} {w : WaitSlot} {x : Wait} {i : LeaseSlot} (live : s.wait w = some x)
      (first : s.standsFirst w x.set = true) (compatible : s.admitsAll x.set = true)
      (free : s.lease i = none) (ready : s.tokens.state = .ready) :
      TableMove s ((s.removeWait w).grantLease i x.owner x.set x.duration)
  | demand {s : State} (waits : s.loading = true → s.creation ≠ []) : TableMove s s.demandToken

abbrev TableMoves : State → State → Prop := Relation.ReflTransGen TableMove

/-- What the rule of a request is made of (R22 to R183). -/
inductive Work : State → State → Prop
  | quiet {s t : State} (unseen : Quiet s t) : Work s t
  | tables {s t : State} (moves : TableMoves s t) : Work s t.retire
  | grant {s : State} {i : LeaseSlot} (o : Owner) {set : List Entry} {d : Word}
      (loaded : s.loading = false) (free : s.lease i = none) (ready : s.tokens.state = .ready)
      (distinct : (tagsOf set).Nodup) (unpinned : ∀ e ∈ set, (s.view e.tag).pin = .unpinned)
      (compatible : s.admitsAll set = true) (lasts : d ≠ 0) : Work s (s.grantLease i o set d)
  | createWait {s : State} {w : WaitSlot} (o : Owner) {r : AcquireRequest}
      (loaded : s.loading = false) (free : s.wait w = none) (distinct : (tagsOf r.set).Nodup)
      (unpinned : ∀ e ∈ r.set, (s.view e.tag).pin = .unpinned) (lasts : r.duration ≠ 0)
      (may : r.limit ≠ 0) : Work s (s.createWait w o r)
  | demand {s : State} (loaded : s.loading = false) : Work s s.demandToken
  | acceptPin {s : State} (client : Client) {d : PinData} {k : PinSlot} {i : LeaseSlot}
      (loaded : s.loading = false) (free : s.record? d.tag = none)
      (blank : s.store.slots[k].state = .blank) (idle : s.storeFree = true)
      (vacant : s.lease i = none) : Work s (s.acceptPin client d k i)
  | acceptUnpin {s : State} (client : Client) {k : PinSlot} {r : Record} {i : LeaseSlot}
      (loaded : s.loading = false) (settled : s.settledPin? k = some (r, i))
      (idle : s.storeFree = true) : Work s (s.acceptUnpin client k r i)
  | renew {s : State} {i : LeaseSlot} {x : Lease} (d : Word) (held : s.lease i = some x)
      (active : x.state = .active) :
      Work s ((s.setLease i (some { x with duration := some (x.renewed d) })).reloadClaim (.lease i)
        (x.renewed d))

abbrev Works : State → State → Prop := Relation.ReflTransGen Work

/-- The pin of an entry is given up: its lease, its pin state and the entry go (R120, R123). -/
def State.giveUpPin (s : State) (e : PinOp) : State :=
  ((s.removeLease e.leaseSlot).setPin e.tag .unpinned).dropPinOp e.slot

/-- The pin of an entry holds its tag alone (R119). -/
def State.settlePin (s : State) (e : PinOp) : State :=
  ((s.setLeaseState e.leaseSlot .pinned).setDirectory (onTags [e.tag]
    (fun r => { r with holders := r.holders ++ [⟨e.leaseSlot, .exclusive⟩], pin := .pinned e.slot })
    s.directory)).dropPinOp e.slot

/-- The pin of an entry stays (R124). -/
def State.keepPin (s : State) (e : PinOp) : State :=
  ((s.setLeaseState e.leaseSlot .pinned).setPin e.tag (.pinned e.slot)).dropPinOp e.slot

/-- The end of a store operation, before an advance held pending is started: its item joins the list and the
controller is IDLE (R104, R106). -/
def State.completes (s : State) (item : WorkItem) : State := (s.appendItem item).setController .idle

/-- The moves that a command other than a device reset is made of. -/
inductive Move : State → State → Prop
  | unseen {s t : State} (same : t.bare = s.bare) : Move s t
  | work {s t : State} (work : Work s t) : Move s t
  | tick (s : State) : Move s s.tickClock
  | runOut (s : State) (n : CountdownName) : Move s (s.appendIfRunOut n)
  | clockItem {s : State} {n : CountdownName} {g : Generation}
      (taken : s.servingItem (clockItem n g)) : Move s (s.clearMark n).freed
  | load {s : State} {begun : Nat} {active : List (PinSlot × PinData)}
      (taken : s.servingItem (.load begun active)) :
      Move s { active.foldl State.loadPin s with
        tokens := s.tokens.afterLoad begun, loading := false, inService := none }
  | arm {s : State} {n : Nat} (taken : s.servingItem (.advance n .good)) :
      Move s { s with tokens := ⟨.ready, BitVec.ofNat 16 n, 1⟩, inService := none }
  | fault {s : State} {n : Nat} (taken : s.servingItem (.advance n .failed)) :
      Move s { s with tokens := ⟨.fault, s.tokens.epoch, 0⟩, inService := none }
  | lostPinWrite {s : State} {k : PinSlot} {r : StepResult} (taken : s.servingItem (.pinWrite k r))
      (gone : s.pinOp? k = none) : Move s s.freed
  | lostPinVoid {s : State} {k : PinSlot} {r : StepResult} (taken : s.servingItem (.pinVoid k r))
      (gone : s.pinOp? k = none) : Move s s.freed
  | settlePin {s : State} {k : PinSlot} {e : PinOp} (taken : s.servingItem (.pinWrite k .good))
      (entry : s.pinOp? k = some e) : Move s (s.settlePin e).freed
  | keepPin {s : State} {k : PinSlot} {e : PinOp} (taken : s.servingItem (.pinVoid k .failed))
      (entry : s.pinOp? k = some e) : Move s (s.keepPin e).freed
  | giveUpPin {s t : State} {k : PinSlot} {e : PinOp}
      (taken : s.servingItem (.pinWrite k .failed) ∨ s.servingItem (.pinVoid k .good))
      (entry : s.pinOp? k = some e) (moves : TableMoves (s.giveUpPin e).freed t) : Move s t.retire
  | startUpLoad {s : State} (reading : s.store.controller = .loading) :
      Move s ({ s with store := s.store.loaded s.cells }.appendItem
        (.load s.cells.begunCount s.cells.activeSlots))
  | endAdvance {s : State} {n : Nat} (busy : s.store.controller = .busyAdvance n)
      (beginStep doneStep : StepResult) :
      Move s ((s.setEpochMarks n (advanceMarks beginStep doneStep)).completes
        (.advance n (bothSteps beginStep doneStep)))
  | endPinWrite {s : State} {k : PinSlot} (busy : s.store.controller = .busyPinWrite k)
      (dataStep validStep : StepResult) (x : PinCells) :
      Move s (((s.setPinCells k x).setSlotEntry k
        (s.store.slots[k].written dataStep validStep)).completes
          (.pinWrite k (bothSteps dataStep validStep)))
  | endPinVoid {s : State} {k : PinSlot} (busy : s.store.controller = .busyPinVoid k)
      (voidStep : StepResult) (x : PinCells) :
      Move s (((s.setPinCells k x).setSlotEntry k
        { s.store.slots[k] with state := .void }).completes (.pinVoid k voidStep))
  | startPending {s : State} (idle : s.store.controller = .idle)
      (pending : s.store.pendingAdvance = true) : Move s s.endOperation

abbrev Moves : State → State → Prop := Relation.ReflTransGen Move

end Sys2Proof.Machine
end

section
/-! PROOFS. The rules of the requests are made of moves of the tables, which leave the engine's service and the
links' queues. -/

namespace Sys2Proof.Machine

section
variable {s t u : State}

/-! ### What the moves leave -/

theorem Undisturbed.refl (s : State) : Undisturbed s s := ⟨rfl, fun _ => ⟨rfl, rfl⟩⟩

theorem Undisturbed.trans (h : Undisturbed s t) (k : Undisturbed t u) : Undisturbed s u :=
  ⟨k.inService.trans h.inService, fun l =>
    ⟨(k.queues l).1.trans (h.queues l).1, (k.queues l).2.trans (h.queues l).2⟩⟩

/-- What leaves the links whole leaves their queues. -/
theorem Undisturbed.of_links (inService : t.inService = s.inService) (links : t.links = s.links) :
    Undisturbed s t :=
  ⟨inService, fun l => by simp only [State.link, links, and_self]⟩

/-- A course of steps that each leave the service and the queues leaves them. -/
theorem Undisturbed.of_steps {r : State → State → Prop} (step : ∀ s t, r s t → Undisturbed s t)
    (steps : Relation.ReflTransGen r s t) : Undisturbed s t := by
  induction steps with
  | refl => exact .refl s
  | tail _ last ih => exact ih.trans (step _ _ last)

theorem State.undisturbed_removeLease (s : State) (i : LeaseSlot) :
    Undisturbed s (s.removeLease i) := by
  rw [State.removeLease_eq]
  cases s.lease i <;> exact .of_links rfl rfl

theorem State.undisturbed_removeWait (s : State) (w : WaitSlot) :
    Undisturbed s (s.removeWait w) := by
  rw [State.removeWait_eq]
  cases s.wait w <;> exact .of_links rfl rfl

theorem State.undisturbed_demandToken (s : State) : Undisturbed s s.demandToken := by
  rw [State.demandToken_eq]
  exact .of_links rfl rfl

theorem TableMove.undisturbed (move : TableMove s t) : Undisturbed s t := by
  cases move with
  | quiet unseen => exact unseen.toUndisturbed
  | removeLease i => exact s.undisturbed_removeLease i
  | removeWait w => exact s.undisturbed_removeWait w
  | shareLease => exact .of_links rfl rfl
  | grant => exact (s.undisturbed_removeWait _).trans (.of_links rfl rfl)
  | demand => exact s.undisturbed_demandToken

theorem Work.undisturbed (work : Work s t) : Undisturbed s t := by
  cases work with
  | quiet unseen => exact unseen.toUndisturbed
  | tables moves =>
    exact (Undisturbed.of_steps (fun _ _ => TableMove.undisturbed) moves).trans (.of_links rfl rfl)
  | grant => exact .of_links rfl rfl
  | createWait =>
    simp only [State.createWait]
    split <;> exact .of_links rfl rfl
  | demand => exact s.undisturbed_demandToken
  | acceptPin => exact .of_links rfl rfl
  | acceptUnpin => exact .of_links rfl rfl
  | renew => exact .of_links rfl rfl

theorem Works.undisturbed (works : Works s t) : Undisturbed s t :=
  .of_steps (fun _ _ => Work.undisturbed) works

/-! ### Changes that no law sees -/

theorem Quiet.trans (h : Quiet s t) (k : Quiet t u) : Quiet s u :=
  ⟨h.toUndisturbed.trans k.toUndisturbed, k.bare.trans h.bare⟩

theorem State.quiet_setNotices (s : State) (l : Link) (q : NoticeQueue) :
    Quiet s (s.setNotices l q) := ⟨.of_links rfl rfl, rfl⟩

theorem State.quiet_setLink (s : State) (l : Link) {x : LinkState} (fifo : x.fifo = (s.link l).fifo)
    (responses : x.responses = (s.link l).responses) : Quiet s (s.setLink l x) where
  inService := rfl
  queues k := by
    rw [State.link_setLink]
    split
    case isTrue same => exact ⟨same ▸ fifo, same ▸ responses⟩
    case isFalse => exact ⟨rfl, rfl⟩
  bare := rfl

theorem State.quiet_postUnreserved (s : State) (l : Link) (n : Notice) :
    Quiet s (s.postUnreserved l n) := by
  unfold State.postUnreserved
  split <;> exact s.quiet_setNotices l _

theorem State.quiet_emptyNotices (s : State) (l : Link) : Quiet s (s.emptyNotices l) :=
  (s.quiet_setNotices l _).trans (State.quiet_setLink _ l rfl rfl)

theorem State.quiet_clearNotices (client : Client) (s : State) (l : Link) :
    Quiet s (State.clearNotices client s l) :=
  ((s.quiet_emptyNotices l).trans (State.quiet_setNotices _ l _)).trans
    (State.quiet_postUnreserved _ l _)

theorem Quiet.moves (h : Quiet s t) : TableMoves s t := .single (.quiet h)

theorem Quiet.works (h : Quiet s t) : Works s t := .single (.quiet h)

theorem Work.works (h : Work s t) : Works s t := .single h

/-! ### Removals, aborts and the pass (R34, R52 to R60) -/

/-- Operations that are each a course of moves are one, one after the other. -/
theorem TableMoves.foldl {α : Type} {op : State → α → State} (moves : ∀ t x, TableMoves t (op t x))
    (xs : List α) (s : State) : TableMoves s (xs.foldl op s) :=
  List.foldlRecOn (motive := TableMoves s) xs op .refl fun t course x _ => course.trans (moves t x)

theorem State.moves_removeLeases (s : State) (slots : List LeaseSlot) :
    TableMoves s (s.removeLeases slots) :=
  TableMoves.foldl (fun t i => .single (.removeLease t i)) slots s

theorem State.moves_cancelWait (s : State) (w : WaitSlot) : TableMoves s (s.cancelWait w) := by
  unfold State.cancelWait
  split
  · exact .refl
  · exact (Relation.ReflTransGen.single (.removeWait s w)).trans (State.quiet_setNotices _ _ _).moves

theorem State.moves_abortWait (reason : AbortReason) (s : State) (w : WaitSlot) :
    TableMoves s (State.abortWait reason s w) := by
  rw [State.abortWait_eq]
  split
  · exact .refl
  · exact (Relation.ReflTransGen.single (.removeWait s w)).trans (State.quiet_setNotices _ _ _).moves

theorem State.moves_abortWaits (s : State) (reason : AbortReason) :
    TableMoves s (s.abortWaits reason) :=
  TableMoves.foldl (State.moves_abortWait reason) s.creation s

theorem State.moves_revokeLease (tag : Tag) (s : State) (i : LeaseSlot) :
    TableMoves s (State.revokeLease tag s i) := by
  unfold State.revokeLease
  split
  · exact .refl
  · exact (Relation.ReflTransGen.single (.removeLease s i)).trans
      (State.quiet_postUnreserved _ _ _).moves

theorem State.moves_detachOwners (s : State) (p : Owner → Bool) : TableMoves s (s.detachOwners p) :=
  (s.moves_removeLeases _).trans (TableMoves.foldl State.moves_cancelWait (s.waitsOf p) _)

theorem State.moves_clearTables (s : State) : TableMoves s s.clearTables :=
  (s.moves_removeLeases _).trans
    (TableMoves.foldl (fun t w => .single (.removeWait t w)) (s.liveWaits fun _ => true) _)

/-- The scan's waits, where they are live, stand in the creation order (R53). -/
def State.listsLive (s : State) (ws : List WaitSlot) : Prop :=
  ∀ w ∈ ws, s.wait w ≠ none → w ∈ s.creation

/-- The removal of a live wait takes it alone from the creation order (R59). -/
theorem State.creation_removeWait_of_live {x : Wait} {w : WaitSlot} (live : s.wait w = some x) :
    (s.removeWait w).creation = s.creation.filter fun v => v != w := by
  rw [State.removeWait_eq, live]

theorem State.listsLive.grantWait {ws : List WaitSlot} (h : s.listsLive ws) {w : WaitSlot} {x : Wait}
    (live : s.wait w = some x) (i : LeaseSlot) : (s.grantWait w x i).listsLive ws := by
  intro v ahead still
  change (s.removeWait w).wait v ≠ none at still
  change v ∈ (s.removeWait w).creation
  rw [State.wait_removeWait] at still
  have other : v ≠ w := fun same => still (if_pos same)
  rw [if_neg other] at still
  rw [State.creation_removeWait_of_live live, List.mem_filter]
  exact ⟨h v ahead still, bne_iff_ne.2 other⟩

theorem State.moves_scan (ws : List WaitSlot) (s : State) (listed : s.listsLive ws) :
    TableMoves s (State.scan ws s) := by
  induction ws generalizing s with
  | nil => exact .refl
  | cons w rest ih =>
    have later : s.listsLive rest := fun v ahead => listed v (List.mem_cons_of_mem w ahead)
    cases live : s.wait w with
    | none => simpa only [State.scan, live] using ih s later
    | some x =>
      rw [State.scan_cons s w rest x live]
      split
      case isFalse => exact ih s later
      case isTrue rule =>
        rw [Bool.and_eq_true] at rule
        split
        case h_1 => exact .refl
        case h_2 i found =>
          split
          case isFalse =>
            have mem : w ∈ s.creation := listed w List.mem_cons_self (by simp [live])
            exact .single (.demand fun _ => List.ne_nil_of_mem mem)
          case isTrue ready =>
            obtain ⟨free, -⟩ := State.freeLease?_eq_some found
            have granted : TableMoves s (s.grantWait w x i) :=
              (Relation.ReflTransGen.single (.grant live rule.1 rule.2 free ready)).trans
                (State.quiet_setNotices _ _ _).moves
            split
            · exact granted.trans (State.moves_abortWaits _ _)
            · exact granted.trans (ih _ (later.grantWait live i))

/-- The end of an item's work on the tables (R11, R52). -/
theorem State.moves_settleTables (s : State) (passRuns : Bool) :
    ∃ u, TableMoves s u ∧ s.settleTables passRuns = u.retire := by
  refine ⟨if passRuns then s.promotionPass else s, ?_, rfl⟩
  split
  · exact s.moves_scan s.creation fun _ mem _ => mem
  · exact .refl

/-- What moves the tables, and then settles them, is one work. -/
theorem TableMoves.settle (moves : TableMoves s t) (passRuns : Bool) :
    Works s (t.settleTables passRuns) := by
  obtain ⟨u, pass, settled⟩ := t.moves_settleTables passRuns
  rw [settled]
  exact (Work.tables (moves.trans pass)).works

/-! ### The rules that read or set up (R14, R31, R38, R68, R97, R128, R173, R174, R185) -/

/-- The rule's work, on a part that has loaded, is made of moves. -/
def RuleMoves (rule : RequestRule) : Prop :=
  ∀ s o p, s.loading = false → Works s (rule s o p).1

/-- The rule changes nothing that a law sees. -/
def RuleQuiet (rule : RequestRule) : Prop := ∀ s o p, Quiet s (rule s o p).1

theorem Quiet.refl (s : State) : Quiet s s := ⟨.refl s, rfl⟩

theorem ruleQuery_quiet : RuleQuiet ruleQuery := by
  intro s o p
  unfold ruleQuery
  split <;> exact .refl s

theorem ruleCheck_quiet : RuleQuiet ruleCheck := by
  intro s o p
  simp only [ruleCheck]
  split <;> exact .refl s

theorem ruleList_quiet : RuleQuiet ruleList := by
  intro s o p
  unfold ruleList
  split <;> exact .refl s

theorem ruleCaps_quiet : RuleQuiet ruleCaps := fun s _ _ => .refl s

theorem rulePinTable_quiet : RuleQuiet rulePinTable := by
  intro s o p
  unfold rulePinTable
  split <;> exact .refl s

theorem ruleLinkConfig_quiet : RuleQuiet ruleLinkConfig := by
  intro s o p
  unfold ruleLinkConfig
  split
  · exact .refl s
  · exact s.quiet_setLink o.link rfl rfl

theorem ruleStatus_quiet : RuleQuiet ruleStatus := by
  intro s o p
  unfold ruleStatus
  split
  case h_1 => exact .refl s
  case h_2 clears _ =>
    cases clears with
    | false => exact .refl s
    | true =>
      have counters := s.quiet_setLink o.link (x := (s.link o.link).clearErrors) rfl rfl
      exact counters.trans (State.quiet_setNotices _ _ _)

theorem ruleSetTick_quiet : RuleQuiet ruleSetTick := by
  intro s o p
  simp only [ruleSetTick]
  split
  · exact .refl s
  · exact ⟨.of_links rfl rfl, rfl⟩

/-- The judgement of R20 accepts an ACTIVE lease alone. -/
theorem State.active_of_judgeLease {o : Owner} {p : List Byte} {i : LeaseSlot} {x : Lease}
    (ok : s.judgeLease o p = .ok (i, x)) : s.lease i = some x ∧ x.state = .active := by
  unfold State.judgeLease at ok
  dsimp only at ok
  split at ok
  case h_1 => cases ok
  case h_2 y held =>
    split at ok
    case isFalse => cases ok
    case isTrue =>
      split at ok
      case isFalse => cases ok
      case isTrue active =>
        cases ok
        exact ⟨held, active⟩

theorem ruleRenew_moves : RuleMoves ruleRenew := by
  intro s o p _
  unfold ruleRenew
  split
  case h_1 => exact .refl
  case h_2 i x ok =>
    obtain ⟨held, active⟩ := State.active_of_judgeLease ok
    exact (Work.renew _ held active).works

/-! ### The rules that free leases and waits (R33, R36, R57, R176 to R183) -/

theorem ruleRelease_moves : RuleMoves ruleRelease := by
  intro s o p _
  unfold ruleRelease
  split
  · exact .refl
  · exact TableMoves.settle (.single (.removeLease s _)) true

theorem ruleDowngrade_moves : RuleMoves ruleDowngrade := by
  intro s o p _
  unfold ruleDowngrade
  split
  case h_1 => exact .refl
  case h_2 i x ok =>
    obtain ⟨held, active⟩ := State.active_of_judgeLease ok
    exact TableMoves.settle (.single (.shareLease held active)) true

theorem ruleCancel_moves : RuleMoves ruleCancel := by
  intro s o p _
  unfold ruleCancel
  split
  · exact .refl
  · exact (s.moves_cancelWait _).settle true

theorem ruleRevoke_moves : RuleMoves ruleRevoke := by
  intro s o p _
  simp only [ruleRevoke]
  split
  · exact .refl
  · exact (TableMoves.foldl (State.moves_revokeLease _) _ s).settle _

theorem ruleDetach_moves : RuleMoves ruleDetach := by
  intro s o p _
  unfold ruleDetach
  split
  case h_1 => exact .refl
  case h_2 => exact (s.moves_detachOwners _).settle _
  case h_3 =>
    exact TableMoves.settle ((s.moves_detachOwners _).trans (State.quiet_emptyNotices _ _).moves) _

theorem ruleForceDetach_moves : RuleMoves ruleForceDetach := by
  intro s o p _
  unfold ruleForceDetach
  split
  · exact .refl
  · exact TableMoves.settle ((s.moves_detachOwners _).trans ((State.quiet_emptyNotices _ _).trans
      (State.quiet_postUnreserved _ _ _)).moves) _

theorem ruleClear_moves : RuleMoves ruleClear := by
  intro s o p _
  unfold ruleClear
  split
  · exact .refl
  · exact TableMoves.settle (s.moves_clearTables.trans
      (TableMoves.foldl (fun t l => (State.quiet_clearNotices o.client t l).moves) _ _)) true

/-! ### PIN and UNPIN (R117, R118, R121, R122) -/

/-- The BLANK slot that the search gives is BLANK (R118). -/
theorem State.blank_of_blankSlot? {k : PinSlot} (found : s.blankSlot? = some k) :
    s.store.slots[k].state = .blank := by
  simpa using List.find?_some found

theorem State.works_pinServe (s : State) (client : Client) (d : PinData)
    (loaded : s.loading = false) : Works s (s.pinServe client d).1 := by
  unfold State.pinServe
  split
  case isTrue => exact .refl
  case isFalse noRecord =>
    split
    case h_1 => exact .refl
    case h_2 k found =>
      split
      case isTrue => exact .refl
      case isFalse idle =>
        split
        case isTrue => exact .refl
        case isFalse =>
          split
          case h_1 => exact .refl
          case h_2 i vacant =>
            split
            case isFalse => exact .refl
            case isTrue =>
              exact (Work.acceptPin client loaded (by simpa using noRecord)
                (State.blank_of_blankSlot? found) (by simpa using idle)
                (State.freeLease?_eq_some vacant).1).works

theorem rulePin_moves : RuleMoves rulePin := by
  intro s o p loaded
  unfold rulePin
  split
  · exact .refl
  · exact s.works_pinServe o.client _ loaded

theorem ruleUnpin_moves : RuleMoves ruleUnpin := by
  intro s o p loaded
  unfold ruleUnpin
  split
  case h_1 => exact .refl
  case h_2 k r i found =>
    split
    case isTrue => exact .refl
    case isFalse idle =>
      split
      case isFalse => exact .refl
      case isTrue =>
        obtain ⟨j, -, settled⟩ := Option.bind_eq_some_iff.1 found
        obtain ⟨y, settled, same⟩ := Option.map_eq_some_iff.1 settled
        cases same
        exact (Work.acceptUnpin o.client loaded settled (by simpa using idle)).works

/-! ### ACQUIRE (R22 to R30, R43 to R47) -/

/-- R23: a request has distinct tags and a duration of at least 1. -/
theorem acquireRequest?_sound {p : List Byte} {r : AcquireRequest} (spelt : acquireRequest? p = some r) :
    (tagsOf r.set).Nodup ∧ r.duration ≠ 0 ∧ r.set.length ≤ 4 := by
  simp only [acquireRequest?] at spelt
  repeat' split at spelt
  all_goals cases spelt
  rename_i distinct _ lasts
  have tags : tagsOf ((acquireUsed p).map fun e => ⟨e.1, (modeOf e.2).getD .shared⟩)
      = (acquireUsed p).map Prod.fst := by
    simp [tagsOf, Function.comp_def]
  refine ⟨tags ▸ not_not.1 distinct, lasts, ?_⟩
  simp only [List.length_map, acquireUsed, List.length_take]
  exact Nat.min_le_right _ _

/-- A check that finds no entry passes every entry (R24, R25, R29). -/
theorem entryRefusal_eq_none {o : OutcomeCode} {set : List Entry} {fails : Entry → Bool} :
    entryRefusal o set fails = none ↔ ∀ e ∈ set, fails e = false := by
  simp [entryRefusal, List.findIdx?_eq_none_iff]

theorem PinState.unpinned_of_not_settled {pin : PinState} (inForce : pin.inForce = false)
    (settling : pin.settling = false) : pin = .unpinned := by
  cases pin <;> simp_all [PinState.inForce, PinState.settling]

/-- R24: a request that passes steps 3 to 6 asks for tags without a pin. -/
theorem State.unpinned_of_acquireRefusal {o : Owner} {set : List Entry}
    (passes : s.acquireRefusal o set = none) : ∀ e ∈ set, (s.view e.tag).pin = .unpinned := by
  simp only [State.acquireRefusal, Option.orElse_eq_none, entryRefusal_eq_none] at passes
  obtain ⟨-, inForce, settling, -⟩ := passes
  exact fun e mem => PinState.unpinned_of_not_settled (inForce e mem) (settling e mem)

/-- R26: the conditions of an immediate grant. -/
theorem State.immediateSlot?_eq_some {set : List Entry} {i : LeaseSlot} :
    s.immediateSlot? set = some i ↔ (s.noQueue set = true ∧ s.admitsAll set = true
      ∧ s.tokens.state = .ready) ∧ s.freeLease? = some i := by
  simp only [State.immediateSlot?, Option.ite_none_right_eq_some, Bool.and_eq_true, beq_iff_eq,
    and_assoc]

theorem State.works_afterGrant (s : State) : Works s s.afterGrant := by
  unfold State.afterGrant
  split
  · exact (s.moves_abortWaits .exhausted).settle true
  · exact .refl

theorem State.works_acquireNoWait (s : State) (set : List Entry) (loaded : s.loading = false) :
    Works s (s.acquireNoWait set).1 := by
  unfold State.acquireNoWait
  split
  case h_1 => exact .refl
  case h_2 =>
    split
    · exact .refl
    · exact (Work.demand loaded).works

theorem State.createWait_loading (s : State) (w : WaitSlot) (o : Owner) (r : AcquireRequest) :
    (s.createWait w o r).loading = s.loading := by
  simp only [State.createWait]
  split <;> rfl

theorem ruleAcquire_moves : RuleMoves ruleAcquire := by
  intro s o p loaded
  unfold ruleAcquire
  split
  case h_1 => exact .refl
  case h_2 r spelt =>
    obtain ⟨distinct, lasts, -⟩ := acquireRequest?_sound spelt
    split
    case h_1 => exact .refl
    case h_2 passes =>
      have unpinned := State.unpinned_of_acquireRefusal passes
      unfold State.acquireServe
      split
      case h_1 i found =>
        obtain ⟨⟨-, compatible, ready⟩, vacant⟩ := State.immediateSlot?_eq_some.1 found
        obtain ⟨free, -⟩ := State.freeLease?_eq_some vacant
        exact (Work.grant o loaded free ready distinct unpinned compatible lasts).works.trans
          (State.works_afterGrant _)
      case h_2 =>
        split
        case isTrue => exact s.works_acquireNoWait r.set loaded
        case isFalse may =>
          unfold State.acquireWait
          split
          case h_1 => exact .refl
          case h_2 w found =>
            obtain ⟨free, -⟩ := State.freeWait?_eq_some found
            split
            case isFalse => exact .refl
            case isTrue =>
              have waits := (Work.createWait o loaded free distinct unpinned lasts may).works
              dsimp only
              split
              · exact waits.trans
                  (Work.demand ((s.createWait_loading w o r).trans loaded)).works
              · exact waits

end

end Sys2Proof.Machine
end

section
/-! PROOFS. Every command other than a device reset is a course of moves; and what a step keeps, shown move by
move. -/

namespace Sys2Proof.Machine

section
variable {s t u : State}

/-! ### Changes of the links alone (R161 to R169) -/

/-- Nothing but the links and their notice queues has changed. -/
def LinksOnly (s t : State) : Prop := t = { s with links := t.links, notices := t.notices }

theorem LinksOnly.refl (s : State) : LinksOnly s s := rfl

theorem LinksOnly.trans (h : LinksOnly s t) (k : LinksOnly t u) : LinksOnly s u := by
  unfold LinksOnly at h k ⊢
  rw [k, h]

theorem LinksOnly.bare (h : LinksOnly s t) : t.bare = s.bare := by
  unfold LinksOnly at h
  rw [h]
  rfl

theorem State.linksOnly_setLink (s : State) (l : Link) (x : LinkState) : LinksOnly s (s.setLink l x) :=
  rfl

theorem State.linksOnly_setNotices (s : State) (l : Link) (q : NoticeQueue) :
    LinksOnly s (s.setNotices l q) := rfl

theorem State.linksOnly_markHead (s : State) (l : Link) (code : Byte) :
    LinksOnly s (s.markHead l code) := by
  unfold State.markHead
  split <;> rfl

theorem State.linksOnly_fetchDiscard (s : State) (l : Link) (code : Byte) :
    LinksOnly s (s.fetchDiscard l code) := by
  unfold State.fetchDiscard State.discardNotice State.discardResponse
  repeat' split
  all_goals rfl

theorem State.linksOnly_shiftPresentation (s : State) (l : Link) (code : Byte) (stream : List Byte)
    (shifted : Nat) (isHead : Bool) (n : Nat) :
    LinksOnly s (s.shiftPresentation l code stream shifted isHead n) := by
  unfold State.shiftPresentation
  split
  · exact (s.linksOnly_setLink l _).trans (State.linksOnly_markHead _ l code)
  · exact s.linksOnly_setLink l _

theorem State.linksOnly_beginPresentation (s : State) (l : Link) (code : Byte) (n : Nat) :
    LinksOnly s (s.beginPresentation l code n) :=
  (s.linksOnly_fetchDiscard l code).trans (State.linksOnly_shiftPresentation _ l code _ _ _ n)

theorem State.linksOnly_collect (s : State) (l : Link) (status : Byte) (old new : List Byte) :
    LinksOnly s (s.collect l status old new) := by
  simp only [State.collect]
  split
  case h_1 =>
    split
    case isTrue =>
      split
      · exact (s.linksOnly_setLink l _).trans ((State.linksOnly_setLink _ l _).trans
          (State.linksOnly_beginPresentation _ l _ _))
      · rfl
    case isFalse => split <;> rfl
  all_goals rfl

theorem State.linksOnly_receiveBytes (s : State) (l : Link) (new : List Byte) :
    LinksOnly s (s.receiveBytes l new) := by
  unfold State.receiveBytes
  split
  case h_3 => exact s.linksOnly_collect l _ _ new
  case h_4 => exact s.linksOnly_shiftPresentation l _ _ _ _ _
  all_goals rfl

theorem State.linksOnly_selectRises (s : State) (l : Link) : LinksOnly s (s.selectRises l) := by
  unfold State.selectRises
  split
  case h_1 => split <;> rfl
  all_goals rfl

/-! ### The service and the arbiter -/

/-- A service without an item of the list may give way to another, or to none: no item is lost. -/
theorem State.bare_setInService {v : Option Service} (none : ∀ item, s.inService ≠ some (.internal item))
    (noItem : ∀ item, v ≠ some (.internal item)) : ({ s with inService := v } : State).bare = s.bare := by
  have items {t : State} (no : ∀ item, t.inService ≠ some (.internal item)) :
      t.items = t.workList := by
    unfold State.items
    split
    case h_1 item taken => exact absurd taken (no item)
    all_goals rfl
  have same : ({ s with inService := v } : State).items = s.items := (items noItem).trans (items none).symm
  rw [State.bare, same]
  rfl

theorem State.bare_arbitrate (s : State) : s.arbitrate.bare = s.bare := by
  rw [State.bare, s.items_arbitrate, State.arbitrate_eq]
  rfl

theorem State.moves_arbitrate (s : State) : Moves s s.arbitrate := .single (.unseen s.bare_arbitrate)

/-- A response that is queued ends a request's item unseen (R155). -/
theorem State.moves_respond {l : Link} {r : Response}
    (request : ∀ item, s.inService ≠ some (.internal item)) : Moves s (s.respond l r) := by
  have queued : Move s { s.appendResponse l r with inService := none } :=
    .unseen (State.bare_setInService (s := s.appendResponse l r) request nofun)
  exact (Relation.ReflTransGen.single queued).trans (State.moves_arbitrate _)

/-- A window's stretch moves nothing but the links, and the arbiter (R149, R161). -/
theorem State.moves_windowOf (s : State) (l : Link) (w : Segment) (ok : Byte → Bool) :
    Moves s (s.windowOf l w ok) := by
  have falls : LinksOnly s (if w.falls then s.selectFalls l else s) := by split <;> rfl
  have received := falls.trans (State.linksOnly_receiveBytes _ l w.bytes)
  unfold State.windowOf State.runSegment
  split
  case isFalse => exact .refl
  case isTrue =>
    refine (Relation.ReflTransGen.single (.unseen (LinksOnly.bare ?_))).trans
      (State.moves_arbitrate _)
    split
    · exact received.trans (State.linksOnly_selectRises _ l)
    · exact received

/-! ### The request rows (R154) -/

/-- The rows that serve requests, each with the codes it serves and its rule. -/
inductive RequestRow : (Extent → Instr) → (Byte → Bool) → RequestRule → Prop
  | acquire : RequestRow (fun e => .acquire e) (· == 0x10) ruleAcquire
  | renew : RequestRow (fun e => .renew e) (· == 0x11) ruleRenew
  | release : RequestRow (fun e => .release e) (· == 0x12) ruleRelease
  | downgrade : RequestRow (fun e => .downgrade e) (· == 0x13) ruleDowngrade
  | cancel : RequestRow (fun e => .cancel e) (· == 0x14) ruleCancel
  | query : RequestRow (fun e => .query e) (· == 0x20) ruleQuery
  | check : RequestRow (fun e => .check e) (· == 0x21) ruleCheck
  | list : RequestRow (fun e => .list e) (· == 0x22) ruleList
  | detach : RequestRow (fun e => .detach e) (· == 0x30) ruleDetach
  | linkConfig : RequestRow (fun e => .linkConfig e) (· == 0x31) ruleLinkConfig
  | status : RequestRow (fun e => .status e) (· == 0x32) ruleStatus
  | caps : RequestRow (fun e => .caps e) (· == 0x33) ruleCaps
  | pinTable : RequestRow (fun e => .pinTable e) (· == 0x34) rulePinTable
  | pin : RequestRow (fun e => .pin e) (· == 0x40) rulePin
  | unpin : RequestRow (fun e => .unpin e) (· == 0x41) ruleUnpin
  | revoke : RequestRow (fun e => .revoke e) (· == 0x42) ruleRevoke
  | forceDetach : RequestRow (fun e => .forceDetach e) (· == 0x43) ruleForceDetach
  | setTick : RequestRow (fun e => .setTick e) (· == 0x44) ruleSetTick
  | clear : RequestRow (fun e => .clear e) (· == 0x45) ruleClear
  | unknownRequest : RequestRow (fun e => .unknownRequest e) (fun code => (payloadLength? code).isNone)
      (fun t _ _ => (t, .plain .badRequest))

section
variable {row : Extent → Instr} {ok : Byte → Bool} {rule : RequestRule}

theorem RequestRow.exec_eq (h : RequestRow row ok rule) (extent : Extent) (s : State) :
    exec (row extent) s = .next (s.serveCodes ok rule extent) := by cases h <;> rfl

/-- The rule of a row either is quiet, or is made of moves and serves codes that wait for the load (R153). -/
theorem RequestRow.rule_moves (h : RequestRow row ok rule) : RuleQuiet rule
    ∨ RuleMoves rule ∧ ∀ code, ok code = true → servedWhileLoading.contains code = false := by
  cases h with
  | query => exact .inl ruleQuery_quiet
  | check => exact .inl ruleCheck_quiet
  | list => exact .inl ruleList_quiet
  | linkConfig => exact .inl ruleLinkConfig_quiet
  | status => exact .inl ruleStatus_quiet
  | caps => exact .inl ruleCaps_quiet
  | pinTable => exact .inl rulePinTable_quiet
  | setTick => exact .inl ruleSetTick_quiet
  | unknownRequest => exact .inl fun s _ _ => .refl s
  | acquire => exact .inr ⟨ruleAcquire_moves, by simp [servedWhileLoading]⟩
  | renew => exact .inr ⟨ruleRenew_moves, by simp [servedWhileLoading]⟩
  | release => exact .inr ⟨ruleRelease_moves, by simp [servedWhileLoading]⟩
  | downgrade => exact .inr ⟨ruleDowngrade_moves, by simp [servedWhileLoading]⟩
  | cancel => exact .inr ⟨ruleCancel_moves, by simp [servedWhileLoading]⟩
  | detach => exact .inr ⟨ruleDetach_moves, by simp [servedWhileLoading]⟩
  | pin => exact .inr ⟨rulePin_moves, by simp [servedWhileLoading]⟩
  | unpin => exact .inr ⟨ruleUnpin_moves, by simp [servedWhileLoading]⟩
  | revoke => exact .inr ⟨ruleRevoke_moves, by simp [servedWhileLoading]⟩
  | forceDetach => exact .inr ⟨ruleForceDetach_moves, by simp [servedWhileLoading]⟩
  | clear => exact .inr ⟨ruleClear_moves, by simp [servedWhileLoading]⟩

/-- The judgement of a frame by its row's rule is work on the tables (R145, R153). -/
theorem RequestRow.works_judge (h : RequestRow row ok rule) {f : Frame} (own : ok f.code = true)
    (s : State) (l : Link) : Works s (s.judge rule l f).1 := by
  cases passes : s.preamble l f with
  | some o =>
    rw [State.judge_of_refusal passes]
  | none =>
    rw [State.judge_of_pass passes]
    rcases h.rule_moves with quiet | ⟨moves, later⟩
    · exact (quiet s _ _).works
    · exact moves s _ _ (State.ready_of_passes passes (later _ own))

theorem Works.moves (works : Works s t) : Moves s t :=
  Relation.ReflTransGen.lift id (fun _ _ => Move.work) _ _ works

theorem RequestRow.moves_serveCodes (h : RequestRow row ok rule) (s : State) (extent : Extent) :
    Moves s (s.serveCodes ok rule extent) := by
  unfold State.serveCodes
  split
  case h_1 l f taken =>
    split
    case isFalse => exact .refl
    case isTrue own =>
      have works := h.works_judge own s l
      have service := works.undisturbed.inService
      have request (item : WorkItem) :
          (s.judge rule l f).1.inService ≠ some (.internal item) := by simp [service, taken]
      refine works.moves.trans ?_
      cases extent with
      | toItsEnd => exact State.moves_respond request
      | toItsResponse => exact .single (.unseen (State.bare_setInService request nofun))
  case h_2 l r taken =>
    cases extent with
    | toItsResponse => exact .refl
    | toItsEnd =>
      dsimp only
      split
      · exact State.moves_respond (by simp [taken])
      · exact .refl
  all_goals exact .refl

end

/-! ### The items of the work list (R77, R79, R87, R88, R114, R119 to R124) -/

theorem TableMoves.undisturbed (moves : TableMoves s t) : Undisturbed s t :=
  .of_steps (fun _ _ => TableMove.undisturbed) moves

/-- An item of a countdown ends with the clearing of its mark (R77, R79). -/
theorem State.moves_endClockItem {n : CountdownName} {g : Generation} (moves : Moves s t)
    (service : t.inService = some (.internal (clockItem n g))) :
    Moves s (t.clearMark n).endItem :=
  (moves.tail (.clockItem service)).trans (State.moves_arbitrate _)

/-- An item of a countdown that moves the tables settles them, and ends. -/
theorem TableMoves.endClockItem {n : CountdownName} {g : Generation}
    (taken : s.servingItem (clockItem n g)) (moves : TableMoves s t) :
    Moves s ((t.settleTables true).clearMark n).endItem :=
  State.moves_endClockItem (moves.settle true).moves
    ((moves.settle true).undisturbed.inService.trans taken)

/-- The service of an expiry item: what it does to the tables, and then its end (R77, R78). -/
theorem State.moves_serveExpiry {i : LeaseSlot} {g : Generation}
    (taken : s.servingItem (.expiry i g)) : Moves s (s.serveExpiry i g) := by
  unfold State.serveExpiry
  split
  case h_1 =>
    exact TableMoves.endClockItem taken ((Relation.ReflTransGen.single (.removeLease s i)).trans
      (State.quiet_postUnreserved _ _ _).moves)
  case h_2 => exact State.moves_endClockItem .refl taken

theorem State.moves_serveTimeout {w : WaitSlot} {g : Generation}
    (taken : s.servingItem (.timeout w g)) : Moves s (s.serveTimeout w g) := by
  unfold State.serveTimeout
  split
  case h_1 =>
    exact TableMoves.endClockItem taken ((Relation.ReflTransGen.single (.removeWait s w)).trans
      (State.quiet_setNotices _ _ _).moves)
  case h_2 => exact State.moves_endClockItem .refl taken

theorem State.moves_serveLoad {begun : Nat} {active : List (PinSlot × PinData)}
    (taken : s.servingItem (.load begun active)) : Moves s (s.serveLoad begun active) := by
  have tokens : (active.foldl State.loadPin s).tokens = s.tokens := by rw [State.foldl_loadPin_eq]
  refine (Relation.ReflTransGen.single (.load taken)).trans ?_
  rw [← tokens]
  exact State.moves_arbitrate _

/-! #### The end of the service, before the tables settle -/

theorem State.freed_removeWait (s : State) (w : WaitSlot) :
    (s.removeWait w).freed = s.freed.removeWait w := by
  rw [State.removeWait_eq, State.removeWait_eq]
  change _ = match s.wait w with | none => s.freed | some x => _
  cases s.wait w <;> rfl

theorem State.freed_removeLease (s : State) (i : LeaseSlot) :
    (s.removeLease i).freed = s.freed.removeLease i := by
  rw [State.removeLease_eq, State.removeLease_eq]
  change _ = match s.lease i with | none => s.freed | some x => _
  cases s.lease i <;> rfl

theorem State.freed_startAdvance (s : State) : s.startAdvance.freed = s.freed.startAdvance := by
  by_cases more : s.store.begun < Config.epochSteps
  · have here : s.freed.store.begun < Config.epochSteps := more
    simp only [State.startAdvance, if_pos more, if_pos here]
    rfl
  · have here : ¬ s.freed.store.begun < Config.epochSteps := more
    simp only [State.startAdvance, if_neg more, if_neg here]
    rfl

theorem State.freed_requestAdvance (s : State) : s.requestAdvance.freed = s.freed.requestAdvance := by
  have same : s.freed.store = s.store := rfl
  unfold State.requestAdvance
  rw [same]
  cases s.store.controller with
  | idle => exact s.freed_startAdvance
  | _ => rfl

theorem State.freed_demandToken (s : State) : s.demandToken.freed = s.freed.demandToken := by
  have same : s.freed.tokens = s.tokens := rfl
  unfold State.demandToken
  rw [same]
  split
  · exact State.freed_requestAdvance (s := { s with tokens := { s.tokens with state := .advancing } })
  · rfl

/-- A quiet change keeps the list. -/
theorem Quiet.workList (h : Quiet s t) : t.workList = s.workList := by
  have items : t.items = s.items := congrArg State.workList h.bare
  unfold State.items at items
  rw [h.inService] at items
  split at items
  case h_1 => exact (List.cons.inj items).2
  all_goals exact items

theorem State.bare_freed (s : State) : s.freed.bare = { s.bare with workList := s.workList } := rfl

theorem Quiet.freed (h : Quiet s t) : Quiet s.freed t.freed where
  inService := rfl
  queues := h.queues
  bare := by rw [State.bare_freed, State.bare_freed, h.bare, h.workList]

/-- No move of the tables reads the engine's service. -/
theorem TableMove.freed (move : TableMove s t) : TableMove s.freed t.freed := by
  cases move with
  | quiet unseen => exact .quiet unseen.freed
  | removeLease i => exact s.freed_removeLease i ▸ .removeLease s.freed i
  | removeWait w => exact s.freed_removeWait w ▸ .removeWait s.freed w
  | shareLease held active => exact .shareLease (s := s.freed) held active
  | @grant w x i live first compatible free ready =>
    have granted := TableMove.grant (s := s.freed) live first compatible free ready
    rw [← State.freed_removeWait] at granted
    exact granted
  | demand waits => exact s.freed_demandToken ▸ .demand (s := s.freed) waits

theorem TableMoves.freed (moves : TableMoves s t) : TableMoves s.freed t.freed :=
  Relation.ReflTransGen.lift State.freed (fun _ _ => TableMove.freed) _ _ moves

end
end Sys2Proof.Machine
end

section
/-! PROOFS. Every command other than a device reset is a course of moves, so that what every move keeps, every
step keeps. -/

namespace Sys2Proof.Machine

section
variable {s t u : State}

/-! ### Completion items (R87, R88, R114, R119 to R124) -/

/-- A quiet end of an item's work. -/
theorem Quiet.moves_endItem (h : Quiet s t) : Moves s.freed t.endItem :=
  (Relation.ReflTransGen.single (.unseen h.freed.bare)).trans (State.moves_arbitrate _)

/-- The tables settled after an item's work, with the engine free. -/
theorem TableMoves.settle_endItem (moves : TableMoves s t) (passRuns : Bool) :
    ∃ u, TableMoves s.freed u ∧ Moves u.retire (t.settleTables passRuns).endItem := by
  obtain ⟨u, pass, settled⟩ := t.moves_settleTables passRuns
  refine ⟨u.freed, TableMoves.freed (moves.trans pass), ?_⟩
  rw [settled]
  exact State.moves_arbitrate _

theorem TableMoves.moves_settle_endItem (moves : TableMoves s t) (passRuns : Bool) :
    Moves s.freed (t.settleTables passRuns).endItem := by
  obtain ⟨u, pass, ends⟩ := moves.settle_endItem passRuns
  exact (Work.tables pass).works.moves.trans ends

theorem State.moves_serveAdvance {n : Nat} {r : StepResult} (taken : s.servingItem (.advance n r)) :
    Moves s (s.serveAdvance n r) := by
  cases r with
  | good =>
    have moves : TableMoves { s with tokens := ⟨.ready, BitVec.ofNat 16 n, 1⟩ }
        { s with tokens := ⟨.ready, BitVec.ofNat 16 n, 1⟩ } := .refl
    exact (Relation.ReflTransGen.single (.arm taken)).trans (moves.moves_settle_endItem true)
  | failed =>
    exact (Relation.ReflTransGen.single (.fault taken)).trans
      ((State.moves_abortWaits { s with tokens := ⟨.fault, s.tokens.epoch, 0⟩ }
        .tokenFault).moves_settle_endItem true)

/-- The entry of a pin operation ends with a pin given up. -/
theorem State.moves_giveUpPin {k : PinSlot} {e : PinOp}
    (taken : s.servingItem (.pinWrite k .failed) ∨ s.servingItem (.pinVoid k .good))
    (entry : s.pinOp? k = some e) (posts : Quiet (s.giveUpPin e) t) :
    Moves s (t.settleTables true).endItem := by
  obtain ⟨u, pass, ends⟩ := posts.moves.settle_endItem true
  exact (Relation.ReflTransGen.single (.giveUpPin taken entry pass)).trans ends

theorem State.moves_servePinWrite {k : PinSlot} {r : StepResult}
    (taken : s.servingItem (.pinWrite k r)) : Moves s (s.servePinWrite k r) := by
  unfold State.servePinWrite
  split
  case h_1 gone =>
    exact (Relation.ReflTransGen.single (.lostPinWrite taken gone)).trans
      (Quiet.refl s).moves_endItem
  case h_2 e entry =>
    cases r with
    | good =>
      exact (Relation.ReflTransGen.single (.settlePin taken entry)).trans
        ((State.quiet_setNotices (s.settlePin e) _ _).trans
          (State.quiet_postUnreserved _ _ _)).moves_endItem
    | failed => exact State.moves_giveUpPin (.inl taken) entry (State.quiet_setNotices _ _ _)

theorem State.moves_servePinVoid {k : PinSlot} {r : StepResult}
    (taken : s.servingItem (.pinVoid k r)) : Moves s (s.servePinVoid k r) := by
  unfold State.servePinVoid
  split
  case h_1 gone =>
    exact (Relation.ReflTransGen.single (.lostPinVoid taken gone)).trans
      (Quiet.refl s).moves_endItem
  case h_2 e entry =>
    cases r with
    | good =>
      exact State.moves_giveUpPin (.inr taken) entry
        ((State.quiet_setNotices _ _ _).trans (State.quiet_postUnreserved _ _ _))
    | failed =>
      exact (Relation.ReflTransGen.single (.keepPin taken entry)).trans
        (State.quiet_setNotices (s.keepPin e) _ _).moves_endItem

/-! ### The store's operations (R104, R107 to R109, R111) -/

/-- The end of a store operation: its completion, and the start of an advance held pending. -/
theorem State.moves_endOperation (s : State) (item : WorkItem) (ends : Moves t (s.completes item)) :
    Moves t (s.appendItem item).endOperation.arbitrate := by
  refine Relation.ReflTransGen.trans ?_ (State.moves_arbitrate _)
  cases pending : s.store.pendingAdvance with
  | true =>
    have same : (s.completes item).endOperation = (s.appendItem item).endOperation := by
      have here : (s.completes item).store.pendingAdvance = true := pending
      have there : (s.appendItem item).store.pendingAdvance = true := pending
      simp only [State.endOperation, here, there, if_true]
      rfl
    exact ends.tail (same ▸ .startPending rfl pending)
  | false =>
    have same : (s.appendItem item).endOperation = s.completes item := by
      simp [State.endOperation, pending, State.completes]
    exact same ▸ ends

/-! ### Every command -/

/-- The rows that serve requests answer a course of moves. -/
theorem RequestRow.exec_moves {row : Extent → Instr} {ok : Byte → Bool} {rule : RequestRule}
    (h : RequestRow row ok rule) (s : State) (extent : Extent) :
    ∃ t, exec (row extent) s = .next t ∧ Moves s t :=
  ⟨_, h.exec_eq extent s, h.moves_serveCodes s extent⟩

/-- Every command but a device reset answers a state that a course of moves leads to. -/
theorem exec_moves (c : Instr) (noReset : ∀ tear, c ≠ .deviceReset tear) (s : State) :
    ∃ t, exec c s = .next t ∧ Moves s t := by
  cases c with
  | deviceReset tear => exact absurd rfl (noReset tear)
  | resetRelease low =>
    refine ⟨_, rfl, .single (.unseen ?_)⟩
    split <;> rfl
  | startUpLoad =>
    refine ⟨_, rfl, ?_⟩
    split
    case isTrue reading =>
      simp only [Bool.and_eq_true, beq_iff_eq] at reading
      exact (Relation.ReflTransGen.single (.startUpLoad reading.2)).trans (State.moves_arbitrate _)
    case isFalse => exact .refl
  | tick =>
    refine ⟨_, rfl, ?_⟩
    split
    · exact .refl
    · exact (Relation.ReflTransGen.single (.tick s)).trans (State.moves_arbitrate _)
  | countdownReachesZero name =>
    refine ⟨_, rfl, ?_⟩
    split
    · exact .refl
    · exact (Relation.ReflTransGen.single (.runOut s name)).trans (State.moves_arbitrate _)
  | requestFrame l w | statusRead l byte | fetchResponse l w | fetchDiscardResponse l w
  | fetchNotice l w | fetchDiscardNotice l w => exact ⟨_, rfl, State.moves_windowOf s _ _ _⟩
  | acquire extent => exact RequestRow.acquire.exec_moves s extent
  | renew extent => exact RequestRow.renew.exec_moves s extent
  | release extent => exact RequestRow.release.exec_moves s extent
  | downgrade extent => exact RequestRow.downgrade.exec_moves s extent
  | cancel extent => exact RequestRow.cancel.exec_moves s extent
  | query extent => exact RequestRow.query.exec_moves s extent
  | check extent => exact RequestRow.check.exec_moves s extent
  | list extent => exact RequestRow.list.exec_moves s extent
  | detach extent => exact RequestRow.detach.exec_moves s extent
  | linkConfig extent => exact RequestRow.linkConfig.exec_moves s extent
  | status extent => exact RequestRow.status.exec_moves s extent
  | caps extent => exact RequestRow.caps.exec_moves s extent
  | pinTable extent => exact RequestRow.pinTable.exec_moves s extent
  | pin extent => exact RequestRow.pin.exec_moves s extent
  | unpin extent => exact RequestRow.unpin.exec_moves s extent
  | revoke extent => exact RequestRow.revoke.exec_moves s extent
  | forceDetach extent => exact RequestRow.forceDetach.exec_moves s extent
  | setTick extent => exact RequestRow.setTick.exec_moves s extent
  | clear extent => exact RequestRow.clear.exec_moves s extent
  | unknownRequest extent => exact RequestRow.unknownRequest.exec_moves s extent
  | advance beginStep doneStep =>
    refine ⟨_, rfl, ?_⟩
    split
    case h_1 n busy =>
      exact State.moves_endOperation _ _ (.single (.endAdvance busy beginStep doneStep))
    all_goals exact .refl
  | pinWrite dataStep validStep voidStep =>
    refine ⟨_, rfl, ?_⟩
    split
    case h_1 k busy =>
      exact State.moves_endOperation _ _ (.single (.endPinWrite busy dataStep validStep _))
    all_goals exact .refl
  | pinVoid voidStep =>
    refine ⟨_, rfl, ?_⟩
    split
    case h_1 k busy => exact State.moves_endOperation _ _ (.single (.endPinVoid busy voidStep _))
    all_goals exact .refl
  | pendingAdvanceStart =>
    refine ⟨_, rfl, ?_⟩
    split
    case isTrue starts =>
      simp only [Bool.and_eq_true, beq_iff_eq] at starts
      exact (Relation.ReflTransGen.single (.startPending starts.1.2 starts.2)).trans
        (State.moves_arbitrate _)
    case isFalse => exact .refl
  | expiry =>
    refine ⟨_, rfl, ?_⟩
    split
    case h_1 taken => exact State.moves_serveExpiry taken
    case h_2 => exact .refl
  | timeout =>
    refine ⟨_, rfl, ?_⟩
    split
    case h_1 taken => exact State.moves_serveTimeout taken
    case h_2 => exact .refl
  | loadCompletion =>
    refine ⟨_, rfl, ?_⟩
    split
    case h_1 taken => exact State.moves_serveLoad taken
    case h_2 => exact .refl
  | advanceCompletion =>
    refine ⟨_, rfl, ?_⟩
    split
    case h_1 taken => exact State.moves_serveAdvance taken
    case h_2 => exact .refl
  | pinWriteCompletion =>
    refine ⟨_, rfl, ?_⟩
    split
    case h_1 taken => exact State.moves_servePinWrite taken
    case h_2 => exact .refl
  | pinVoidCompletion =>
    refine ⟨_, rfl, ?_⟩
    split
    case h_1 taken => exact State.moves_servePinVoid taken
    case h_2 => exact .refl
  | selectRiseAfterReset l =>
    refine ⟨_, rfl, .single (.unseen ?_)⟩
    split <;> rfl

/-! ### Every step -/

/-- Every command answers the state of a device reset, or one that a course of moves leads to. -/
theorem exec_answers (c : Instr) (s : State) : ∃ t, exec c s = .next t
    ∧ ((∃ tear, c = .deviceReset tear ∧ t = { State.reset with
        cells := s.tornCells tear, unstated := s.unstated + 1, pending := s.pending }) ∨ Moves s t) := by
  by_cases reset : ∃ tear, c = .deviceReset tear
  · obtain ⟨tear, rfl⟩ := reset
    exact ⟨_, rfl, .inl ⟨tear, rfl, rfl⟩⟩
  · obtain ⟨t, answer, moves⟩ := exec_moves c (fun tear same => reset ⟨tear, same⟩) s
    exact ⟨t, answer, .inr moves⟩

/-- A law that holds after a device reset, whatever the cells' tear, does not read the queue of commands,
and is kept by every move, is kept by every step. -/
theorem step_keeps {P : State → Prop}
    (reset : ∀ s tear unstated pending, P s → P { State.reset with
      cells := s.tornCells tear, unstated := unstated, pending := pending })
    (queue : ∀ s rest, P s → P { s with pending := rest })
    (move : ∀ s t, P s → Move s t → P t) (s : State) (h : P s) :
    ∃ t, step s = .next t ∧ P t := by
  unfold step
  cases s.pending with
  | nil => exact ⟨s, rfl, h⟩
  | cons c rest =>
    have ready := queue s rest h
    obtain ⟨t, answer, ⟨tear, -, rfl⟩ | moves⟩ := exec_answers c { s with pending := rest }
    · exact ⟨_, answer, reset _ tear _ _ ready⟩
    · refine ⟨t, answer, ?_⟩
      clear answer
      induction moves with
      | refl => exact ready
      | tail _ last ih => exact move _ _ ih last

end
end Sys2Proof.Machine
end

section
/-! PROOFS. What a tag reads after each operation on the directory (R2, R4, R5, R10, R11). -/

namespace Sys2Proof.Machine

section
variable {s t : State}

/-! ### Records and views -/

theorem State.view_tag (s : State) (tag : Tag) : (s.view tag).tag = tag := by
  unfold State.view
  cases found : s.record? tag with
  | none => rfl
  | some r => simpa using List.find?_some found

theorem State.view_eq_of_record {r : Record} {tag : Tag} (found : s.record? tag = some r) :
    s.view tag = r := by
  rw [State.view, found]
  rfl

theorem State.view_eq_fresh {tag : Tag} (none : s.record? tag = none) :
    s.view tag = .fresh tag := by
  rw [State.view, none]
  rfl

/-- In a directory with rising tags a record is what its tag reads. -/
theorem State.view_of_mem (sorted : s.sorted) {r : Record} (mem : r ∈ s.directory) :
    s.view r.tag = r :=
  State.view_eq_of_record (State.record?_of_mem (sorted.imp fun below => BitVec.ne_of_lt below) mem)

/-- A view that is not that of a tag without a record is a record. -/
theorem State.view_mem {tag : Tag} (record : s.view tag ≠ .fresh tag) :
    s.view tag ∈ s.directory := by
  cases found : s.record? tag with
  | none => exact absurd (State.view_eq_fresh found) record
  | some r => exact State.view_eq_of_record found ▸ List.mem_of_find?_eq_some found

/-- What the empty view of a tag meets, the records meet exactly when every tag's view does. -/
theorem State.forall_record_iff (sorted : s.sorted) {P : Record → Prop}
    (fresh : ∀ tag, P (.fresh tag)) : (∀ r ∈ s.directory, P r) ↔ ∀ tag, P (s.view tag) := by
  constructor
  · intro all tag
    by_cases record : s.view tag = .fresh tag
    · exact record ▸ fresh tag
    · exact all _ (State.view_mem record)
  · intro all r mem
    exact State.view_of_mem sorted mem ▸ all r.tag

/-! ### Changes of records -/

theorem State.view_onTags {tags : List Tag} {f : Record → Record} (keeps : ∀ r, (f r).tag = r.tag)
    (empty : ∀ tag, f (.fresh tag) = .fresh tag) (d : t.directory = onTags tags f s.directory)
    (tag : Tag) : t.view tag = if tag ∈ tags then f (s.view tag) else s.view tag := by
  unfold State.view State.record?
  rw [d, find_onTags keeps]
  cases s.directory.find? fun r => r.tag == tag with
  | none => simp [empty]
  | some r => rfl

theorem State.sorted_onTags {tags : List Tag} {f : Record → Record}
    (keeps : ∀ r, (f r).tag = r.tag) (sorted : s.sorted)
    (d : t.directory = onTags tags f s.directory) : t.sorted := by
  unfold State.sorted
  rw [d, onTags_tags keeps]
  exact sorted

theorem State.view_alterRecord {a : Tag} {f : Record → Record} (keeps : ∀ r, (f r).tag = r.tag)
    (sorted : s.sorted) (d : t.directory = alterRecord a f s.directory) (tag : Tag) :
    t.view tag = if tag = a then f (s.view tag) else s.view tag := by
  unfold State.view State.record?
  rw [d, find_alterRecord keeps sorted]
  split
  case isTrue same => rw [same]; rfl
  case isFalse => rfl

theorem State.sorted_alterRecord {a : Tag} {f : Record → Record} (keeps : ∀ r, (f r).tag = r.tag)
    (sorted : s.sorted) (d : t.directory = alterRecord a f s.directory) : t.sorted := by
  unfold State.sorted
  rw [d]
  exact alterRecord_sorted keeps sorted

/-! ### Retirement (R11) -/

/-- Retirement takes the empty records alone. -/
theorem State.record?_retire (sorted : s.sorted) (tag : Tag) :
    s.retire.record? tag = (s.record? tag).filter fun r => !r.isEmpty := by
  have distinct := sorted.imp (S := (· ≠ ·)) fun below => BitVec.ne_of_lt below
  cases found : s.record? tag with
  | none =>
    refine List.find?_eq_none.2 fun r left => ?_
    exact List.find?_eq_none.1 found r (State.mem_retire.1 left).1
  | some r =>
    have mem : r ∈ s.directory := List.mem_of_find?_eq_some found
    have same : r.tag = tag := by simpa using List.find?_some found
    have retired : (s.retire.directory.map Record.tag).Nodup :=
      distinct.sublist (List.filter_sublist.map _)
    cases empty : r.isEmpty with
    | false =>
      have kept : r ∈ s.retire.directory := State.mem_retire.2 ⟨mem, empty⟩
      simpa [Option.filter, empty, same] using State.record?_of_mem retired kept
    | true =>
      have gone : s.retire.record? tag = none := by
        refine List.find?_eq_none.2 fun q left other => ?_
        obtain ⟨listed, inUse⟩ := State.mem_retire.1 left
        have sameRecord : q = r :=
          List.inj_on_of_nodup_map distinct listed mem ((beq_iff_eq.1 other).trans same.symm)
        rw [sameRecord, empty] at inUse
        cases inUse
      simp [gone, Option.filter, empty]

theorem State.sorted_retire (sorted : s.sorted) : s.retire.sorted :=
  sorted.sublist (List.filter_sublist.map _)

/-- Retirement is not seen in a tag's holders, queue and pin state. -/
theorem State.view_retire (sorted : s.sorted) (tag : Tag) :
    (s.retire.view tag).holders = (s.view tag).holders
      ∧ (s.retire.view tag).queue = (s.view tag).queue
      ∧ (s.retire.view tag).pin = (s.view tag).pin := by
  unfold State.view
  rw [State.record?_retire sorted]
  cases s.record? tag with
  | none => exact ⟨rfl, rfl, rfl⟩
  | some r =>
    cases empty : r.isEmpty with
    | false => simp [Option.filter, empty]
    | true =>
      have parts := empty
      simp only [Record.isEmpty, Bool.and_eq_true, List.isEmpty_iff, beq_iff_eq] at parts
      obtain ⟨⟨holders, queue⟩, pin⟩ := parts
      simp [Option.filter, empty, holders, queue, pin, Record.fresh]

/-! ### Joining (R4, R5, R8, R10) -/

/-- The directory with the record of each entry's tag changed, created where there is none. -/
def joinAll (f : Entry → Record → Record) (set : List Entry) (d : List Record) : List Record :=
  set.foldl (fun d e => alterRecord e.tag (f e) d) d

theorem State.joinHolders_eq (s : State) (i : LeaseSlot) (token : Token) (set : List Entry) :
    s.joinHolders i token set = s.setDirectory (joinAll
      (fun e r => { r with holders := r.holders ++ [⟨i, e.mode⟩], lastToken := token }) set
      s.directory) := rfl

theorem State.joinQueues_eq (s : State) (w : WaitSlot) (set : List Entry) :
    s.joinQueues w set = s.setDirectory (joinAll
      (fun _ r => { r with queue := r.queue ++ [w] }) set s.directory) := rfl

section
variable {f : Entry → Record → Record} (keeps : ∀ e r, (f e r).tag = r.tag)
include keeps

theorem joinAll_sorted {d : List Record} (set : List Entry)
    (sorted : (d.map Record.tag).Pairwise (· < ·)) :
    ((joinAll f set d).map Record.tag).Pairwise (· < ·) := by
  induction set generalizing d with
  | nil => exact sorted
  | cons e rest ih => exact ih (alterRecord_sorted (keeps e) sorted)

theorem find_joinAll_of_not_mem {d : List Record} {set : List Entry} {tag : Tag}
    (sorted : (d.map Record.tag).Pairwise (· < ·)) (other : tag ∉ tagsOf set) :
    (joinAll f set d).find? (fun r => r.tag == tag) = d.find? fun r => r.tag == tag := by
  induction set generalizing d with
  | nil => rfl
  | cons e rest ih =>
    obtain ⟨first, later⟩ := not_or.1 (mt List.mem_cons.2 other)
    calc (joinAll f (e :: rest) d).find? (fun r => r.tag == tag)
      _ = (alterRecord e.tag (f e) d).find? (fun r => r.tag == tag) :=
          ih (alterRecord_sorted (keeps e) sorted) later
      _ = d.find? fun r => r.tag == tag := by
          rw [find_alterRecord (keeps e) sorted, if_neg first]

theorem find_joinAll_of_mem {d : List Record} {set : List Entry} {e : Entry}
    (sorted : (d.map Record.tag).Pairwise (· < ·)) (distinct : (tagsOf set).Nodup) (mem : e ∈ set) :
    (joinAll f set d).find? (fun r => r.tag == e.tag)
      = some (f e ((d.find? fun r => r.tag == e.tag).getD (.fresh e.tag))) := by
  induction set generalizing d with
  | nil => cases mem
  | cons a rest ih =>
    obtain ⟨first, later⟩ := List.nodup_cons.1 distinct
    have step := alterRecord_sorted (tag := a.tag) (keeps a) sorted
    change (joinAll f rest (alterRecord a.tag (f a) d)).find? _ = _
    rcases List.mem_cons.1 mem with rfl | behind
    · rw [find_joinAll_of_not_mem keeps step first, find_alterRecord (keeps e) sorted, if_pos rfl]
    · have other : e.tag ≠ a.tag := fun same => first (same ▸ List.mem_map_of_mem behind)
      rw [ih step later behind, find_alterRecord (keeps a) sorted, if_neg other]

theorem State.sorted_joinAll {set : List Entry} (sorted : s.sorted)
    (d : t.directory = joinAll f set s.directory) : t.sorted := by
  unfold State.sorted
  rw [d]
  exact joinAll_sorted keeps set sorted

theorem State.record?_joinAll {set : List Entry} (sorted : s.sorted) (distinct : (tagsOf set).Nodup)
    (d : t.directory = joinAll f set s.directory) :
    (∀ e ∈ set, t.record? e.tag = some (f e (s.view e.tag)))
      ∧ ∀ tag, tag ∉ tagsOf set → t.record? tag = s.record? tag := by
  unfold State.record?
  rw [d]
  exact ⟨fun e mem => find_joinAll_of_mem keeps sorted distinct mem,
    fun tag other => find_joinAll_of_not_mem keeps sorted other⟩

theorem State.view_joinAll {set : List Entry} (sorted : s.sorted) (distinct : (tagsOf set).Nodup)
    (d : t.directory = joinAll f set s.directory) :
    (∀ e ∈ set, t.view e.tag = f e (s.view e.tag))
      ∧ ∀ tag, tag ∉ tagsOf set → t.view tag = s.view tag := by
  obtain ⟨own, other⟩ := State.record?_joinAll keeps sorted distinct d
  refine ⟨fun e mem => State.view_eq_of_record (own e mem), fun tag apart => ?_⟩
  unfold State.view
  rw [other tag apart]

end

/-- A part of the records that the change leaves reads as before, whatever the set. -/
theorem State.view_joinAll_of_kept {α : Type} {f : Entry → Record → Record}
    (keeps : ∀ e r, (f e r).tag = r.tag) {part : Record → α}
    (kept : ∀ e r, part (f e r) = part r) {set : List Entry} (sorted : s.sorted)
    (d : t.directory = joinAll f set s.directory) (tag : Tag) :
    part (t.view tag) = part (s.view tag) := by
  induction set generalizing s with
  | nil =>
    unfold State.view State.record?
    rw [d]
    rfl
  | cons e rest ih =>
    let u := s.setDirectory (alterRecord e.tag (f e) s.directory)
    have first := State.view_alterRecord (t := u) (keeps e) sorted rfl tag
    rw [ih (s := u) (State.sorted_alterRecord (keeps e) sorted rfl) d, first]
    split
    · exact kept e _
    · rfl

/-- Settles O45: the records of the set change one by one, each once, since the tags are distinct. -/
theorem joiningReachesTheTagsOfTheSet : Obligations.JoiningReachesTheTagsOfTheSet := by
  intro s set sorted distinct
  refine ⟨fun i token => ?_, fun w => ?_⟩
  · have d := congrArg State.directory (s.joinHolders_eq i token set)
    obtain ⟨own, other⟩ := State.record?_joinAll (by intros; rfl) sorted distinct d
    exact ⟨State.sorted_joinAll (by intros; rfl) sorted d, rfl, own, other⟩
  · have d := congrArg State.directory (s.joinQueues_eq w set)
    obtain ⟨own, other⟩ := State.record?_joinAll (by intros; rfl) sorted distinct d
    exact ⟨State.sorted_joinAll (by intros; rfl) sorted d, rfl, own, other⟩

/-- Settles O44: a removal is its fields' changes, and retirement tests every record. -/
theorem removalFreesTheSlot : Obligations.RemovalFreesTheSlot := by
  intro s
  refine ⟨fun i x held => ?_, fun w x live => ?_, fun sorted tag => State.record?_retire sorted tag⟩
  · have others : (fun h : Holder => h.slot != i) = fun h => decide (h.slot ≠ i) := by
      funext h
      exact Bool.eq_iff_iff.2 (by simp)
    rw [State.removeLease_eq, held]
    simp only [onTags, List.contains_iff_mem, Record.dropHolder, others]
  · have others : (fun v : WaitSlot => v != w) = fun v => decide (v ≠ w) := by
      funext v
      exact Bool.eq_iff_iff.2 (by simp)
    rw [State.removeWait_eq, live]
    simp only [onTags, List.contains_iff_mem, Record.dropWaiter, others]

end
end Sys2Proof.Machine
end

section
/-! PROOFS. Law 5 (R48) and Law 8 (R11), move by move. -/

namespace Sys2Proof.Machine

section
variable {s t : State}

/-! ### What the clock and the store change -/

/-- The clock's items change the clocks and the list, and nothing else. -/
theorem State.appendClockItems_frame (s : State) (ns : List CountdownName) :
    ns.foldl State.appendClockItem s = { s with
      leaseClock := (ns.foldl State.appendClockItem s).leaseClock
      waitClock := (ns.foldl State.appendClockItem s).waitClock
      workList := (ns.foldl State.appendClockItem s).workList } := by
  have frame (a b items) : (s.withClocks a b).appendItems items = { s with
      leaseClock := ((s.withClocks a b).appendItems items).leaseClock
      waitClock := ((s.withClocks a b).appendItems items).waitClock
      workList := ((s.withClocks a b).appendItems items).workList } := rfl
  rw [State.foldl_appendClockItem]
  exact frame _ _ _

theorem State.appendIfRunOut_eq (s : State) (n : CountdownName) :
    s.appendIfRunOut n = { s with
      leaseClock := (s.appendIfRunOut n).leaseClock
      waitClock := (s.appendIfRunOut n).waitClock
      workList := (s.appendIfRunOut n).workList } := by
  unfold State.appendIfRunOut
  split
  · exact s.appendClockItems_frame [n]
  · rfl

theorem State.clearMark_eq (s : State) (n : CountdownName) :
    s.clearMark n = { s with
      leaseClock := (s.clearMark n).leaseClock
      waitClock := (s.clearMark n).waitClock
      workList := (s.clearMark n).workList } := by
  unfold State.clearMark
  rw [State.appendIfRunOut_eq]
  cases n <;> rfl

theorem State.tickClock_frame (s : State) :
    s.tickClock = { s with
      dividerInForce := s.dividerRequested
      leaseClock := s.tickClock.leaseClock
      waitClock := s.tickClock.waitClock
      workList := s.tickClock.workList } :=
  State.appendClockItems_frame _ s.dueAtTick

/-! ### Law 5 (R48) -/

/-- Law 5, as every tag reads it. -/
theorem queueLaw_iff : QueueLaw s ↔ s.sorted ∧ CreationLists s
    ∧ ∀ tag, (s.view tag).queue = s.creation.filter (s.asksFor tag) := by
  constructor
  · rintro ⟨sorted, lists, queues, records⟩
    refine ⟨sorted, lists, fun tag => ?_⟩
    cases found : s.record? tag with
    | some r =>
      have same : r.tag = tag := by simpa using List.find?_some found
      rw [State.view_eq_of_record found, queues r (List.mem_of_find?_eq_some found), same]
    | none =>
      refine (State.view_eq_fresh found ▸ (List.filter_eq_nil_iff.2 fun w _ asks => ?_).symm)
      obtain ⟨x, live, asked⟩ := (Option.any_eq_true _ _).1 asks
      have := records w x live tag (List.contains_iff_mem.1 asked)
      simp [found] at this
  · rintro ⟨sorted, lists, queues⟩
    refine ⟨sorted, lists, fun r mem => ?_, fun w x live tag asked => ?_⟩
    · rw [← queues r.tag, State.view_of_mem sorted mem]
    · have listed : w ∈ s.creation := (lists.live w).2 (by simp [live])
      have asks : s.asksFor tag w = true := by
        simpa [State.asksFor, live, List.contains_iff_mem] using asked
      have queued : w ∈ (s.view tag).queue := queues tag ▸ List.mem_filter.2 ⟨listed, asks⟩
      by_contra none
      rw [State.view_eq_fresh (Option.not_isSome_iff_eq_none.1 none)] at queued
      exact List.not_mem_nil queued

namespace QueueLaw

/-- Law 5 reads the waits, the creation order and the queues. -/
theorem of_queues (h : QueueLaw s) (sorted : t.sorted) (creation : t.creation = s.creation)
    (waits : t.waits = s.waits) (queues : ∀ tag, (t.view tag).queue = (s.view tag).queue) :
    QueueLaw t := by
  obtain ⟨-, lists, ordered⟩ := queueLaw_iff.1 h
  refine queueLaw_iff.2 ⟨sorted, lists.congr creation waits, fun tag => ?_⟩
  have asks : t.asksFor tag = s.asksFor tag := by
    funext w
    simp only [State.asksFor, State.wait, waits]
  rw [queues tag, ordered tag, creation, asks]

theorem of_same (h : QueueLaw s) (directory : t.directory = s.directory)
    (creation : t.creation = s.creation) (waits : t.waits = s.waits) : QueueLaw t :=
  h.of_queues (by simpa only [State.sorted, directory] using h.sorted) creation waits fun tag => by
    simp only [State.view, State.record?, directory]

/-- A change of records other than in their queues. -/
theorem of_onTags (h : QueueLaw s) {tags : List Tag} {f : Record → Record}
    (keeps : ∀ r, (f r).tag = r.tag) (queue : ∀ r, (f r).queue = r.queue)
    (d : t.directory = onTags tags f s.directory) (creation : t.creation = s.creation)
    (waits : t.waits = s.waits) : QueueLaw t := by
  refine h.of_queues (State.sorted_onTags keeps h.sorted d) creation waits fun tag => ?_
  unfold State.view State.record?
  rw [d, find_onTags keeps]
  cases s.directory.find? fun r => r.tag == tag with
  | none => rfl
  | some r =>
    change (if tag ∈ tags then f r else r).queue = r.queue
    split
    · exact queue r
    · rfl

theorem of_alterRecord (h : QueueLaw s) {a : Tag} {f : Record → Record}
    (keeps : ∀ r, (f r).tag = r.tag) (queue : ∀ r, (f r).queue = r.queue)
    (d : t.directory = alterRecord a f s.directory) (creation : t.creation = s.creation)
    (waits : t.waits = s.waits) : QueueLaw t := by
  refine h.of_queues (State.sorted_alterRecord keeps h.sorted d) creation waits fun tag => ?_
  rw [State.view_alterRecord keeps h.sorted d]
  split
  · exact queue _
  · rfl

theorem removeLease (h : QueueLaw s) (i : LeaseSlot) : QueueLaw (s.removeLease i) := by
  rw [State.removeLease_eq]
  cases s.lease i with
  | none => exact h
  | some x =>
    exact h.of_onTags (f := Record.dropHolder i) (fun _ => rfl) (fun _ => rfl) rfl rfl rfl

theorem shareLease (h : QueueLaw s) (i : LeaseSlot) (x : Lease) : QueueLaw (s.shareLease i x) :=
  h.of_onTags (f := Record.shareHolder i) (fun _ => rfl) (fun _ => rfl) rfl rfl rfl

/-- A wait that is removed leaves the queues of its tags, and stands in no other. -/
theorem removeWait (h : QueueLaw s) (w : WaitSlot) : QueueLaw (s.removeWait w) := by
  obtain ⟨sorted, lists, ordered⟩ := queueLaw_iff.1 h
  cases live : s.wait w with
  | none =>
    rw [State.removeWait_eq, live]
    exact h
  | some x =>
    have d : (s.removeWait w).directory = onTags (tagsOf x.set) (Record.dropWaiter w) s.directory := by
      rw [State.removeWait_eq, live]
    refine queueLaw_iff.2 ⟨State.sorted_onTags (f := Record.dropWaiter w) (fun _ => rfl) sorted d,
      lists.removeWait w, fun tag => ?_⟩
    have asks : (s.creation.filter fun v => v != w).filter ((s.removeWait w).asksFor tag)
        = (s.creation.filter (s.asksFor tag)).filter fun v => v != w := by
      refine (List.filter_congr fun v mem => ?_).trans (List.filter_comm _ _ _)
      have other : v ≠ w := by simpa using (List.mem_filter.1 mem).2
      simp only [State.asksFor, State.wait_removeWait, if_neg other]
    rw [State.view_onTags (f := Record.dropWaiter w) (fun _ => rfl) (fun _ => rfl) d,
      lists.creation_removeWait, asks, ← ordered tag]
    split
    case isTrue => rfl
    case isFalse elsewhere =>
      refine (List.filter_eq_self.2 fun v queued => bne_iff_ne.2 fun same => elsewhere ?_).symm
      rw [ordered tag, same, List.mem_filter, State.asksFor, live] at queued
      simpa using queued.2

theorem grantLease (h : QueueLaw s) (i : LeaseSlot) (o : Owner) (set : List Entry) (d : Word) :
    QueueLaw (s.grantLease i o set d) := by
  have joined := congrArg State.directory (s.joinHolders_eq i s.tokens.next set)
  rw [State.grantLease_eq]
  exact h.of_queues (State.sorted_joinAll (by intros; rfl) h.sorted joined) rfl rfl
    (State.view_joinAll_of_kept (by intros; rfl) (by intros; rfl) h.sorted joined)

theorem retire (h : QueueLaw s) : QueueLaw s.retire :=
  h.of_queues (State.sorted_retire h.sorted) rfl rfl fun tag => (State.view_retire h.sorted tag).2.1

theorem of_bare (h : QueueLaw s) (same : t.bare = s.bare) : QueueLaw t := by
  have bare : QueueLaw s.bare := h.of_same rfl rfl rfl
  rw [← same] at bare
  exact bare.of_same rfl rfl rfl

theorem demandToken (h : QueueLaw s) : QueueLaw s.demandToken := by
  rw [State.demandToken_eq]
  exact h.of_same rfl rfl rfl

theorem tableMove (h : QueueLaw s) (move : TableMove s t) : QueueLaw t := by
  cases move with
  | quiet unseen => exact h.of_bare unseen.bare
  | removeLease i => exact h.removeLease i
  | removeWait w => exact h.removeWait w
  | shareLease => exact h.shareLease _ _
  | grant => exact (h.removeWait _).grantLease _ _ _ _
  | demand => exact h.demandToken

theorem tableMoves (h : QueueLaw s) (moves : TableMoves s t) : QueueLaw t := by
  induction moves with
  | refl => exact h
  | tail _ last ih => exact ih.tableMove last

/-- A wait that forms stands at the tail of the creation order and of the queues of its tags (R45). -/
theorem createWait (h : QueueLaw s) {w : WaitSlot} (free : s.wait w = none) (o : Owner)
    {r : AcquireRequest} (distinct : (tagsOf r.set).Nodup) : QueueLaw (s.createWait w o r) := by
  obtain ⟨sorted, lists, ordered⟩ := queueLaw_iff.1 h
  have directory : (s.createWait w o r).directory = (s.joinQueues w r.set).directory := by
    simp only [State.createWait]
    split <;> rfl
  have waits : (s.createWait w o r).waits = s.waits.set w
      (some ⟨stepGeneration s.waitGens[w], o, r.set, r.duration, r.limit⟩) := by
    simp only [State.createWait]
    split <;> rfl
  have creation : (s.createWait w o r).creation = s.creation ++ [w] := by
    simp only [State.createWait]
    split <;> rfl
  have d := directory.trans (congrArg State.directory (s.joinQueues_eq w r.set))
  obtain ⟨own, other⟩ := State.view_joinAll (by intros; rfl) sorted distinct d
  refine queueLaw_iff.2 ⟨State.sorted_joinAll (by intros; rfl) sorted d,
    (lists.createWait free _).congr creation waits, fun tag => ?_⟩
  have earlier : s.creation.filter ((s.createWait w o r).asksFor tag)
      = s.creation.filter (s.asksFor tag) := by
    refine List.filter_congr fun v listed => ?_
    have apart : v ≠ w := by
      rintro rfl
      simpa [free] using (lists.live v).1 listed
    have same : (s.createWait w o r).wait v = s.wait v := by
      simp only [State.wait, waits]
      exact Vector.getElem_set_ne _ _ (by simpa [Fin.ext_iff] using apart.symm)
    simp only [State.asksFor, same]
  have here : (s.createWait w o r).asksFor tag w = (tagsOf r.set).contains tag := by
    simp [State.asksFor, State.wait, waits]
  rw [creation, List.filter_append, earlier, ← ordered tag, List.filter_singleton, here]
  by_cases asked : tag ∈ tagsOf r.set
  · obtain ⟨e, mem, rfl⟩ := List.mem_map.1 asked
    rw [own e mem, List.contains_iff_mem.2 asked]
    rfl
  · have no : (tagsOf r.set).contains tag = false := by simpa using asked
    rw [other tag asked, no]
    simp

theorem work (h : QueueLaw s) (work : Work s t) : QueueLaw t := by
  cases work with
  | quiet unseen => exact h.of_bare unseen.bare
  | tables moves => exact (h.tableMoves moves).retire
  | grant => exact h.grantLease _ _ _ _
  | createWait o _ free distinct => exact h.createWait free o distinct
  | demand => exact h.demandToken
  | acceptPin =>
    exact h.of_alterRecord (f := fun r => { r with pin := .pinning _ }) (fun _ => rfl) (fun _ => rfl)
      rfl rfl rfl
  | acceptUnpin =>
    exact h.of_onTags (f := fun r => { r with pin := .unpinning _ }) (fun _ => rfl) (fun _ => rfl)
      rfl rfl rfl
  | renew => exact h.of_same rfl rfl rfl

theorem loadPins (h : QueueLaw s) (active : List (PinSlot × PinData)) :
    QueueLaw (active.foldl State.loadPin s) := by
  refine List.foldlRecOn (motive := QueueLaw) active _ h fun u kept x _ => ?_
  unfold State.loadPin
  split
  · exact kept
  · exact kept.of_alterRecord (f := fun r =>
      { r with holders := r.holders ++ [⟨_, .exclusive⟩], pin := .pinned x.1 })
      (fun _ => rfl) (fun _ => rfl) rfl rfl rfl

theorem giveUpPin (h : QueueLaw s) (e : PinOp) : QueueLaw (s.giveUpPin e) :=
  (h.removeLease e.leaseSlot).of_onTags (f := fun r => { r with pin := .unpinned }) (fun _ => rfl)
    (fun _ => rfl) rfl rfl rfl

theorem freed (h : QueueLaw s) : QueueLaw s.freed := h.of_same rfl rfl rfl

theorem move (h : QueueLaw s) (move : Move s t) : QueueLaw t := by
  cases move with
  | unseen same => exact h.of_bare same
  | work w => exact h.work w
  | tick =>
    rw [State.tickClock_frame]
    exact h.of_same rfl rfl rfl
  | runOut n =>
    rw [State.appendIfRunOut_eq]
    exact h.of_same rfl rfl rfl
  | clockItem =>
    rw [State.clearMark_eq]
    exact h.of_same rfl rfl rfl
  | load => exact (h.loadPins _).of_same rfl rfl rfl
  | settlePin =>
    exact h.of_onTags (f := fun r => { r with
      holders := r.holders ++ [⟨_, .exclusive⟩], pin := .pinned _ }) (fun _ => rfl) (fun _ => rfl)
      rfl rfl rfl
  | keepPin =>
    exact h.of_onTags (f := fun r => { r with pin := .pinned _ }) (fun _ => rfl) (fun _ => rfl)
      rfl rfl rfl
  | giveUpPin _ _ moves =>
    exact ((h.giveUpPin _).freed.tableMoves moves).retire
  | startPending =>
    rw [State.endOperation_eq]
    exact h.of_same rfl rfl rfl
  | arm | fault | lostPinWrite | lostPinVoid | startUpLoad | endAdvance | endPinWrite | endPinVoid =>
    exact h.of_same rfl rfl rfl

end QueueLaw

theorem queueLaw_reset {cells : Cells} {unstated : Nat} {pending : List Instr} :
    QueueLaw { State.reset with cells := cells, unstated := unstated, pending := pending } where
  sorted := List.Pairwise.nil
  lists := ⟨List.nodup_nil, fun w => by simp [State.wait, State.reset]⟩
  queues r mem := absurd mem List.not_mem_nil
  records w x live := by simp [State.wait, State.reset] at live

/-- Settles O52: Law 5 holds after a reset, and every move keeps it. -/
theorem everyStepKeepsTheQueueLaw : Obligations.EveryStepKeepsTheQueueLaw := by
  intro s t h stepped
  obtain ⟨u, answer, kept⟩ := step_keeps (P := QueueLaw) (fun _ _ _ _ _ => queueLaw_reset)
    (fun _ _ h => h.of_same rfl rfl rfl) (fun _ _ h => h.move) s h
  obtain rfl : u = t := by simpa using answer.symm.trans stepped
  exact kept

end
end Sys2Proof.Machine
end

section
/-! PROOFS. Law 8 and the canonical forms (R2, R11, R101), move by move; and the queue of commands (entry 23). -/

namespace Sys2Proof.Machine

section
variable {s t : State}

/-! ### Law 8 (R11) -/

/-- The canonical forms, without Law 8: what stands while an item is at work on the tables. -/
structure OrderedForms (s : State) : Prop where
  sorted : s.sorted
  epochs : (s.cells.epochs.map Prod.fst).Pairwise (· < ·)
  marks : ∀ e ∈ s.cells.epochs, e.2 ≠ .blank

namespace OrderedForms

theorem of_same (h : OrderedForms s) (directory : t.directory.map Record.tag = s.directory.map Record.tag)
    (cells : t.cells.epochs = s.cells.epochs) : OrderedForms t where
  sorted := by simpa only [State.sorted, directory] using h.sorted
  epochs := cells ▸ h.epochs
  marks := cells ▸ h.marks

theorem of_sorted (h : OrderedForms s) (sorted : t.sorted) (cells : t.cells = s.cells) :
    OrderedForms t := ⟨sorted, cells ▸ h.epochs, cells ▸ h.marks⟩

theorem of_bare (h : OrderedForms s) (same : t.bare = s.bare) : OrderedForms t := by
  have bare : OrderedForms s.bare := h.of_same rfl rfl
  rw [← same] at bare
  exact bare.of_same rfl rfl

theorem removeLease (h : OrderedForms s) (i : LeaseSlot) : OrderedForms (s.removeLease i) := by
  rw [State.removeLease_eq]
  cases s.lease i with
  | none => exact h
  | some x => exact h.of_same (onTags_tags (f := Record.dropHolder i) (fun _ => rfl) _) rfl

theorem removeWait (h : OrderedForms s) (w : WaitSlot) : OrderedForms (s.removeWait w) := by
  rw [State.removeWait_eq]
  cases s.wait w with
  | none => exact h
  | some x => exact h.of_same (onTags_tags (f := Record.dropWaiter w) (fun _ => rfl) _) rfl

theorem shareLease (h : OrderedForms s) (i : LeaseSlot) (x : Lease) :
    OrderedForms (s.shareLease i x) :=
  h.of_same (onTags_tags (f := Record.shareHolder i) (fun _ => rfl) _) rfl

theorem grantLease (h : OrderedForms s) (i : LeaseSlot) (o : Owner) (set : List Entry) (d : Word) :
    OrderedForms (s.grantLease i o set d) := by
  have joined := congrArg State.directory (s.joinHolders_eq i s.tokens.next set)
  rw [State.grantLease_eq]
  exact h.of_sorted (State.sorted_joinAll (by intros; rfl) h.sorted joined) rfl

theorem putMarks (h : OrderedForms s) (n : Nat) (m : EpochMarks) : OrderedForms (s.setEpochMarks n m) :=
  ⟨h.sorted, (putEpochMarks_sorted h.epochs).1, putEpochMarks_marks h.marks⟩

theorem startAdvance (h : OrderedForms s) : OrderedForms s.startAdvance := by
  unfold State.startAdvance
  split
  · exact ⟨h.sorted, (putEpochMarks_sorted h.epochs).1, putEpochMarks_marks h.marks⟩
  · exact h.of_same rfl rfl

theorem demandToken (h : OrderedForms s) : OrderedForms s.demandToken := by
  unfold State.demandToken State.requestAdvance
  split
  · split
    · exact OrderedForms.startAdvance (h.of_same rfl rfl)
    all_goals exact h.of_same rfl rfl
  · exact h

theorem freed (h : OrderedForms s) : OrderedForms s.freed := h.of_same rfl rfl

theorem tableMove (h : OrderedForms s) (move : TableMove s t) : OrderedForms t := by
  cases move with
  | quiet unseen => exact h.of_bare unseen.bare
  | removeLease i => exact h.removeLease i
  | removeWait w => exact h.removeWait w
  | shareLease => exact h.shareLease _ _
  | grant => exact (h.removeWait _).grantLease _ _ _ _
  | demand => exact h.demandToken

theorem tableMoves (h : OrderedForms s) (moves : TableMoves s t) : OrderedForms t := by
  induction moves with
  | refl => exact h
  | tail _ last ih => exact ih.tableMove last

/-- Retirement restores Law 8. -/
theorem retire (h : OrderedForms s) : CanonicalForms s.retire where
  sorted := State.sorted_retire h.sorted
  inUse _ mem := (State.mem_retire.1 mem).2
  epochs := h.epochs
  marks := h.marks

end OrderedForms

/-- What joins every record that it changes leaves none empty. -/
theorem inUse_joinAll {f : Entry → Record → Record} {set : List Entry} {d : List Record}
    (joins : ∀ e r, (f e r).isEmpty = false) (inUse : ∀ r ∈ d, r.isEmpty = false) :
    ∀ r ∈ joinAll f set d, r.isEmpty = false := by
  refine List.foldlRecOn (motive := fun d : List Record => ∀ r ∈ d, r.isEmpty = false) set _ inUse ?_
  intro d inUse e _ r mem
  rcases mem_alterRecord mem with rfl | old | ⟨q, -, -, rfl⟩
  · exact joins e _
  · exact inUse r old
  · exact joins e q

theorem inUse_onTags {f : Record → Record} {tags : List Tag} {d : List Record}
    (uses : ∀ r, r.isEmpty = false → (f r).isEmpty = false) (inUse : ∀ r ∈ d, r.isEmpty = false) :
    ∀ r ∈ onTags tags f d, r.isEmpty = false := by
  intro r mem
  obtain ⟨q, old, rfl⟩ := mem_onTags.1 mem
  split
  · exact uses q (inUse q old)
  · exact inUse q old

namespace CanonicalForms

theorem ordered (h : CanonicalForms s) : OrderedForms s := ⟨h.sorted, h.epochs, h.marks⟩

theorem of_ordered (h : OrderedForms s) (inUse : ∀ r ∈ s.directory, r.isEmpty = false) :
    CanonicalForms s := ⟨h.sorted, inUse, h.epochs, h.marks⟩

theorem of_same (h : CanonicalForms s) (directory : t.directory = s.directory)
    (cells : t.cells.epochs = s.cells.epochs) : CanonicalForms t :=
  .of_ordered (h.ordered.of_same (congrArg _ directory) cells) (directory ▸ h.inUse)

theorem of_bare (h : CanonicalForms s) (same : t.bare = s.bare) : CanonicalForms t := by
  have bare : CanonicalForms s.bare := h.of_same rfl rfl
  rw [← same] at bare
  exact bare.of_same rfl rfl

theorem of_onTags (h : CanonicalForms s) {tags : List Tag} {f : Record → Record}
    (keeps : ∀ r, (f r).tag = r.tag) (uses : ∀ r, r.isEmpty = false → (f r).isEmpty = false)
    (d : t.directory = onTags tags f s.directory) (cells : t.cells = s.cells) : CanonicalForms t :=
  .of_ordered (h.ordered.of_sorted (State.sorted_onTags keeps h.sorted d) cells)
    (d ▸ inUse_onTags uses h.inUse)

/-- What joins a list of one record, or gives it a pin state, leaves Law 8. -/
theorem of_joinAll (h : CanonicalForms s) {set : List Entry} {f : Entry → Record → Record}
    (keeps : ∀ e r, (f e r).tag = r.tag) (joins : ∀ e r, (f e r).isEmpty = false)
    (d : t.directory = joinAll f set s.directory) (cells : t.cells = s.cells) : CanonicalForms t :=
  .of_ordered (h.ordered.of_sorted (State.sorted_joinAll keeps h.sorted d) cells)
    (d ▸ inUse_joinAll joins h.inUse)

theorem grantLease (h : CanonicalForms s) (i : LeaseSlot) (o : Owner) (set : List Entry) (d : Word) :
    CanonicalForms (s.grantLease i o set d) := by
  have joined := congrArg State.directory (s.joinHolders_eq i s.tokens.next set)
  rw [State.grantLease_eq]
  exact h.of_joinAll (by intros; rfl) (fun e r => by simp [Record.isEmpty]) joined rfl

theorem createWait (h : CanonicalForms s) (w : WaitSlot) (o : Owner) (r : AcquireRequest) :
    CanonicalForms (s.createWait w o r) := by
  have joins (u : State) (d : u.directory = (s.joinQueues w r.set).directory)
      (cells : u.cells = s.cells) : CanonicalForms u :=
    h.of_joinAll (f := fun _ q => { q with queue := q.queue ++ [w] }) (by intros; rfl)
      (fun e q => by simp [Record.isEmpty]) d cells
  simp only [State.createWait]
  split <;> exact joins _ rfl rfl

theorem work (h : CanonicalForms s) (work : Work s t) : CanonicalForms t := by
  cases work with
  | quiet unseen => exact h.of_bare unseen.bare
  | tables moves => exact (h.ordered.tableMoves moves).retire
  | grant => exact h.grantLease _ _ _ _
  | createWait => exact h.createWait _ _ _
  | demand =>
    refine .of_ordered h.ordered.demandToken ?_
    rw [State.demandToken_eq]
    exact h.inUse
  | @acceptPin client d k i =>
    exact h.of_joinAll (set := [⟨d.tag, .exclusive⟩])
      (f := fun _ r => { r with pin := .pinning k }) (by intros; rfl)
      (fun e r => by simp [Record.isEmpty]) rfl rfl
  | acceptUnpin =>
    exact h.of_onTags (f := fun r => { r with pin := .unpinning _ }) (fun _ => rfl)
      (fun r _ => by simp [Record.isEmpty]) rfl rfl
  | renew => exact h.of_same rfl rfl

theorem loadPins (h : CanonicalForms s) (active : List (PinSlot × PinData)) :
    CanonicalForms (active.foldl State.loadPin s) := by
  refine List.foldlRecOn (motive := CanonicalForms) active _ h fun u kept x _ => ?_
  unfold State.loadPin
  split
  · exact kept
  · exact kept.of_joinAll (set := [⟨x.2.tag, .exclusive⟩])
      (f := fun _ r => { r with holders := r.holders ++ [⟨_, .exclusive⟩], pin := .pinned x.1 })
      (by intros; rfl) (fun e r => by simp [Record.isEmpty]) rfl rfl

theorem move (h : CanonicalForms s) (move : Move s t) : CanonicalForms t := by
  cases move with
  | unseen same => exact h.of_bare same
  | work w => exact h.work w
  | tick =>
    rw [State.tickClock_frame]
    exact h.of_same rfl rfl
  | runOut n =>
    rw [State.appendIfRunOut_eq]
    exact h.of_same rfl rfl
  | clockItem =>
    rw [State.clearMark_eq]
    exact h.of_same rfl rfl
  | load => exact (h.loadPins _).of_same rfl rfl
  | settlePin =>
    exact h.of_onTags (f := fun r => { r with
      holders := r.holders ++ [⟨_, .exclusive⟩], pin := .pinned _ }) (fun _ => rfl)
      (fun r _ => by simp [Record.isEmpty]) rfl rfl
  | keepPin =>
    exact h.of_onTags (f := fun r => { r with pin := .pinned _ }) (fun _ => rfl)
      (fun r _ => by simp [Record.isEmpty]) rfl rfl
  | @giveUpPin _ _ e _ _ moves =>
    have tags := onTags_tags (tags := [e.tag]) (f := fun r => { r with pin := .unpinned })
      (fun _ => rfl) (s.removeLease e.leaseSlot).directory
    have given : OrderedForms (s.giveUpPin e) :=
      (h.ordered.removeLease e.leaseSlot).of_same tags rfl
    exact (given.freed.tableMoves moves).retire
  | startPending idle pending =>
    refine .of_ordered ?_ ?_
    · have waits : OrderedForms ((s.setController .idle).setPendingAdvance false) :=
        h.ordered.of_same rfl rfl
      rw [State.endOperation, if_pos pending]
      exact waits.startAdvance
    · rw [State.endOperation_eq]
      exact h.inUse
  | endAdvance => exact .of_ordered ((h.ordered.putMarks _ _).of_same rfl rfl) h.inUse
  | arm | fault | lostPinWrite | lostPinVoid | startUpLoad | endPinWrite | endPinVoid =>
    exact h.of_same rfl rfl

/-- A reset writes at most the marks of the step that was running (R110). -/
theorem reset (h : CanonicalForms s) (tear : Tear) (unstated : Nat) (pending : List Instr) :
    CanonicalForms { State.reset with
      cells := s.tornCells tear, unstated := unstated, pending := pending } := by
  have cells : OrderedForms { s with cells := s.tornCells tear } := by
    unfold State.tornCells
    split
    case h_1 n _ =>
      split
      · exact h.ordered.putMarks n _
      · exact h.ordered.putMarks n _
      all_goals exact h.ordered
    case h_2 => exact h.ordered.of_same rfl rfl
    case h_3 => split <;> exact h.ordered.of_same rfl rfl
    all_goals exact h.ordered
  exact .of_ordered ⟨List.Pairwise.nil, cells.epochs, cells.marks⟩ fun r mem =>
    absurd mem List.not_mem_nil

end CanonicalForms

/-- Settles O57: a reset and every move keep the forms. -/
theorem everyStepKeepsTheCanonicalForms : Obligations.EveryStepKeepsTheCanonicalForms := by
  intro s t h stepped
  obtain ⟨u, answer, kept⟩ := step_keeps (P := CanonicalForms) (fun _ _ _ _ h => h.reset _ _ _)
    (fun _ _ h => h.of_same rfl rfl) (fun _ _ h => h.move) s h
  obtain rfl : u = t := by simpa using answer.symm.trans stepped
  exact kept

/-! ### The queue of commands (entry 23) -/

theorem State.pending_removeLease (s : State) (i : LeaseSlot) :
    (s.removeLease i).pending = s.pending := by
  rw [State.removeLease_eq]
  cases s.lease i <;> rfl

theorem State.pending_removeWait (s : State) (w : WaitSlot) :
    (s.removeWait w).pending = s.pending := by
  rw [State.removeWait_eq]
  cases s.wait w <;> rfl

theorem State.pending_demandToken (s : State) : s.demandToken.pending = s.pending := by
  rw [State.demandToken_eq]

theorem State.pending_of_bare (same : t.bare = s.bare) : t.pending = s.pending := by
  have bare : t.bare.pending = s.bare.pending := congrArg State.pending same
  exact bare

theorem TableMove.pending (move : TableMove s t) : t.pending = s.pending := by
  cases move with
  | quiet unseen => exact State.pending_of_bare unseen.bare
  | removeLease i => exact s.pending_removeLease i
  | removeWait w => exact s.pending_removeWait w
  | shareLease => rfl
  | grant => exact s.pending_removeWait _
  | demand => exact s.pending_demandToken

theorem TableMoves.pending (moves : TableMoves s t) : t.pending = s.pending := by
  induction moves with
  | refl => rfl
  | tail _ last ih => exact last.pending.trans ih

theorem Work.pending (work : Work s t) : t.pending = s.pending := by
  cases work with
  | quiet unseen => exact State.pending_of_bare unseen.bare
  | tables moves => exact (State.retire_pending _).trans (TableMoves.pending moves)
  | createWait =>
    simp only [State.createWait]
    split <;> rfl
  | demand => exact s.pending_demandToken
  | grant | acceptPin | acceptUnpin | renew => rfl

/-- No move of a command touches the queue of commands. -/
theorem Move.pending (move : Move s t) : t.pending = s.pending := by
  cases move with
  | unseen same => exact State.pending_of_bare same
  | work work => exact work.pending
  | tick => rw [State.tickClock_frame]
  | runOut n => rw [State.appendIfRunOut_eq]
  | clockItem =>
    rw [State.clearMark_eq]
    rfl
  | load =>
    rw [State.foldl_loadPin_eq]
  | giveUpPin _ _ moves => exact (TableMoves.pending moves).trans (s.pending_removeLease _)
  | startPending => rw [State.endOperation_eq]
  | arm | fault | lostPinWrite | lostPinVoid | settlePin | keepPin | startUpLoad | endAdvance
  | endPinWrite | endPinVoid => rfl

theorem Moves.pending (moves : Moves s t) : t.pending = s.pending := by
  induction moves with
  | refl => rfl
  | tail _ last ih => exact last.pending.trans ih

/-- Settles O2: a device reset keeps the queue of commands, and so does every move. -/
theorem everyCommandAnswersAndKeepsTheQueue : Obligations.EveryCommandAnswersAndKeepsTheQueue := by
  intro c s
  obtain ⟨t, answer, ⟨tear, -, rfl⟩ | moves⟩ := exec_answers c s
  · exact ⟨_, answer, rfl⟩
  · exact ⟨t, answer, Moves.pending moves⟩

end
end Sys2Proof.Machine
end

section
/-! PROOFS. The clock's law (R69 to R74), move by move. -/

namespace Sys2Proof.Machine

section
variable {s t u : State}

/-! ### The lease table and the wait table after each operation -/

theorem State.lease_removeLease (s : State) (i j : LeaseSlot) :
    (s.removeLease i).lease j = if j = i then none else s.lease j := by
  rw [State.removeLease_eq]
  cases held : s.lease i with
  | some x => exact State.lease_setLease s i j none
  | none =>
    by_cases same : j = i
    · simp only [same, held, if_true]
    · simp only [same, if_false]

theorem State.lease_grantLease (s : State) (i j : LeaseSlot) (o : Owner) (set : List Entry) (d : Word) :
    (s.grantLease i o set d).lease j = if j = i
      then some ⟨stepGeneration s.leaseGens[i], o, set, s.tokens.next, some d, .active⟩
      else s.lease j :=
  State.lease_setLease s i j _

theorem State.lease_shareLease (s : State) (i j : LeaseSlot) (x : Lease) :
    (s.shareLease i x).lease j = if j = i then some { x with set := x.set.map Entry.share }
      else s.lease j :=
  State.lease_setLease s i j _

theorem State.wait_createWait (s : State) (w v : WaitSlot) (o : Owner) (r : AcquireRequest) :
    (s.createWait w o r).wait v = if v = w
      then some ⟨stepGeneration s.waitGens[w], o, r.set, r.duration, r.limit⟩ else s.wait v := by
  have waits : (s.createWait w o r).wait v = (s.setWait w
      (some ⟨stepGeneration s.waitGens[w], o, r.set, r.duration, r.limit⟩)).wait v := by
    simp only [State.createWait]
    split <;> rfl
  rw [waits, State.wait_setWait]

theorem State.lease_setLeaseState (s : State) (i j : LeaseSlot) (state : LeaseState) :
    (s.setLeaseState i state).lease j = if j = i
      then (s.lease i).map fun x => { x with state := state } else s.lease j :=
  State.lease_setLease s i j _

/-- A pin that the load makes changes no lease that stood, and is no ACTIVE one (R114). -/
theorem State.lease_loadPin {p : PinSlot × PinData} {i : LeaseSlot} {x : Lease}
    (held : (s.loadPin p).lease i = some x) : s.lease i = some x ∨ x.state = .pinned := by
  unfold State.loadPin at held
  split at held
  case h_1 => exact .inl held
  case h_2 k _ =>
    have slots := (State.lease_setLease s k i _).symm.trans held
    split at slots
    · exact .inr (Option.some.inj slots ▸ rfl)
    · exact .inl slots

theorem State.lease_loadPins {active : List (PinSlot × PinData)} {i : LeaseSlot} {x : Lease}
    (held : (active.foldl State.loadPin s).lease i = some x) :
    s.lease i = some x ∨ x.state = .pinned := by
  induction active generalizing s with
  | nil => exact .inl held
  | cons p rest ih => exact (ih held).elim State.lease_loadPin .inr

/-! ### Countdowns and items -/

@[simp] theorem State.items_setCountdown (s : State) (n : CountdownName) (c : Countdown) :
    (s.setCountdown n c).items = s.items := by cases n <;> rfl

theorem State.items_appendItems (s : State) (items : List WorkItem) :
    (s.appendItems items).items = s.items ++ items := by
  simp only [State.items, State.appendItems]
  split <;> rfl

theorem WorkItem.clocks_clockItem (n m : CountdownName) (g : Generation) :
    (clockItem n g).clocks m = (m == n) := by cases n <;> rfl

/-- The countdown keeps its mark, and is not running at 0 where it was not. -/
def Countdown.settles (c d : Countdown) : Prop :=
  d.mark = c.mark ∧ (d.runOut = true → c.runOut = true)

theorem Countdown.settles.refl (c : Countdown) : c.settles c := ⟨rfl, id⟩

theorem State.settles_stopClaim (s : State) (n m : CountdownName) :
    (s.countdown m).settles ((s.stopClaim n).countdown m) := by
  rw [State.stopClaim, State.countdown_setCountdown]
  split
  case isTrue same =>
    subst same
    exact ⟨rfl, by simp [Countdown.runOut]⟩
  case isFalse => exact .refl _

theorem State.settles_startClaim (s : State) (n m : CountdownName) {v : Word} (lasts : v ≠ 0)
    (g : Generation) : (s.countdown m).settles ((s.startClaim n v g).countdown m) := by
  rw [State.startClaim, State.countdown_setCountdown]
  split
  case isTrue same =>
    subst same
    exact ⟨rfl, by intro out; simp [Countdown.runOut] at out; exact absurd out lasts⟩
  case isFalse => exact .refl _

theorem State.settles_reloadClaim (s : State) (n m : CountdownName) {v : Word} (lasts : v ≠ 0) :
    (s.countdown m).settles ((s.reloadClaim n v).countdown m) := by
  rw [State.reloadClaim, State.countdown_setCountdown]
  split
  case isTrue same =>
    subst same
    exact ⟨rfl, by intro out; simp [Countdown.runOut] at out; exact absurd out.2 lasts⟩
  case isFalse => exact .refl _

/-! ### The clock's law -/

/-- An ACTIVE lease has a duration of at least 1 (R70). -/
def Lease.timed (x : Lease) : Prop := x.state = .active → ∃ d, x.duration = some d ∧ d ≠ 0

/-- A wait has a duration and a limit of at least 1 (R70, R71). -/
def Wait.timed (x : Wait) : Prop := x.duration ≠ 0 ∧ x.limit ≠ 0

namespace ClockLaw

theorem of_parts (h : ClockLaw s)
    (counts : ∀ n, t.items.countP (WorkItem.clocks n) = s.items.countP (WorkItem.clocks n))
    (clocks : ∀ n, (s.countdown n).settles (t.countdown n))
    (leases : ∀ i x, t.lease i = some x → s.lease i = some x ∨ x.timed)
    (waits : ∀ w x, t.wait w = some x → s.wait w = some x ∨ x.timed) : ClockLaw t where
  marks n := by rw [counts, (clocks n).1, h.marks]
  ended n out := by
    rw [(clocks n).1]
    exact h.ended n ((clocks n).2 out)
  leases i x held := (leases i x held).elim (h.leases i x) id
  waits w x live := (waits w x live).elim (h.waits w x) id

/-- A change of the leases and the items alone. -/
theorem of_leases (h : ClockLaw s)
    (counts : ∀ n, t.items.countP (WorkItem.clocks n) = s.items.countP (WorkItem.clocks n))
    (leaseClock : t.leaseClock = s.leaseClock) (waitClock : t.waitClock = s.waitClock)
    (waits : t.waits = s.waits)
    (leases : ∀ i x, t.lease i = some x → s.lease i = some x ∨ x.timed) : ClockLaw t :=
  h.of_parts counts (fun n => by cases n <;> simp only [State.countdown, leaseClock, waitClock,
    Countdown.settles.refl]) leases fun w x live => .inl (by simpa only [State.wait, waits] using live)

/-- A change that no clock, lease or wait shows, and that takes or brings no item of the clock. -/
theorem of_same (h : ClockLaw s)
    (counts : ∀ n, t.items.countP (WorkItem.clocks n) = s.items.countP (WorkItem.clocks n))
    (leaseClock : t.leaseClock = s.leaseClock) (waitClock : t.waitClock = s.waitClock)
    (leases : t.leases = s.leases) (waits : t.waits = s.waits) : ClockLaw t :=
  h.of_leases counts leaseClock waitClock waits fun i x held => .inl (by simpa only [State.lease, leases] using held)

theorem of_bare (h : ClockLaw s) (same : t.bare = s.bare) : ClockLaw t := by
  have bare : ClockLaw s.bare := h.of_same (fun _ => rfl) rfl rfl rfl rfl
  rw [← same] at bare
  exact bare.of_same (fun _ => rfl) rfl rfl rfl rfl

theorem removeLease (h : ClockLaw s) (i : LeaseSlot) : ClockLaw (s.removeLease i) := by
  refine h.of_parts (fun n => ?_) (fun n => ?_) (fun j x held => ?_) fun w x live => .inl ?_
  · unfold State.removeLease
    split <;> rfl
  · unfold State.removeLease
    split
    · exact .refl _
    · exact State.settles_stopClaim (s.setDirectory _) (.lease i) n
  · rw [State.lease_removeLease] at held
    split at held
    · cases held
    · exact .inl held
  · unfold State.removeLease at live
    split at live <;> exact live

theorem removeWait (h : ClockLaw s) (w : WaitSlot) : ClockLaw (s.removeWait w) := by
  refine h.of_parts (fun n => ?_) (fun n => ?_) (fun j x held => .inl ?_) fun v x live => ?_
  · unfold State.removeWait
    split <;> rfl
  · unfold State.removeWait
    split
    · exact .refl _
    · exact State.settles_stopClaim (s.setDirectory _) (.wait w) n
  · unfold State.removeWait at held
    split at held <;> exact held
  · rw [State.wait_removeWait] at live
    split at live
    · cases live
    · exact .inl live

theorem grantLease (h : ClockLaw s) (i : LeaseSlot) (o : Owner) (set : List Entry) {d : Word}
    (lasts : d ≠ 0) : ClockLaw (s.grantLease i o set d) := by
  refine h.of_parts (fun n => rfl)
    (fun n => State.settles_startClaim (s.joinHolders i s.tokens.next set) (.lease i) n lasts _)
    (fun j x held => ?_) fun w x live => .inl live
  rw [State.lease_grantLease] at held
  split at held
  · exact .inr fun _ => ⟨d, by rw [← Option.some.inj held], lasts⟩
  · exact .inl held

/-- A lease whose set or state changes alone is timed as it was. -/
theorem shareLease (h : ClockLaw s) {i : LeaseSlot} {x : Lease} (held : s.lease i = some x) :
    ClockLaw (s.shareLease i x) := by
  refine h.of_leases (fun _ => rfl) rfl rfl rfl fun j y here => ?_
  rw [State.lease_shareLease] at here
  split at here
  · exact .inr (Option.some.inj here ▸ fun active => h.leases i x held active)
  · exact .inl here

theorem setLeaseState (h : ClockLaw s) (i : LeaseSlot) {state : LeaseState}
    (inactive : state ≠ .active) : ClockLaw (s.setLeaseState i state) := by
  refine h.of_leases (fun _ => rfl) rfl rfl rfl fun j x held => ?_
  rw [State.lease_setLeaseState] at held
  split at held
  · obtain ⟨y, -, rfl⟩ := Option.map_eq_some_iff.1 held
    exact .inr fun active => absurd active inactive
  · exact .inl held

theorem appendItem (h : ClockLaw s) {item : WorkItem} (other : ∀ n, item.clocks n = false) :
    ClockLaw (s.appendItem item) := by
  refine h.of_same (fun n => ?_) rfl rfl rfl rfl
  rw [State.items_appendItem, List.countP_append, List.countP_singleton, other n]
  rfl

theorem startAdvance (h : ClockLaw s) : ClockLaw s.startAdvance := by
  unfold State.startAdvance
  split
  · exact h.of_same (fun _ => rfl) rfl rfl rfl rfl
  · have idle : ClockLaw (s.setController .idle) :=
      h.of_same (fun _ => rfl) rfl rfl rfl rfl
    exact idle.appendItem fun _ => rfl

theorem demandToken (h : ClockLaw s) : ClockLaw s.demandToken := by
  have asks : ClockLaw { s with tokens := { s.tokens with state := .advancing } } :=
    h.of_same (fun _ => rfl) rfl rfl rfl rfl
  unfold State.demandToken State.requestAdvance
  split
  · split
    · exact asks.startAdvance
    all_goals exact asks.of_same (fun _ => rfl) rfl rfl rfl rfl
  · exact h

theorem retire (h : ClockLaw s) : ClockLaw s.retire :=
  h.of_same (fun _ => rfl) rfl rfl rfl rfl

theorem tableMove (h : ClockLaw s) (move : TableMove s t) : ClockLaw t := by
  cases move with
  | quiet unseen => exact h.of_bare unseen.bare
  | removeLease i => exact h.removeLease i
  | removeWait w => exact h.removeWait w
  | shareLease held => exact h.shareLease held
  | grant live => exact (h.removeWait _).grantLease _ _ _ (h.waits _ _ live).1
  | demand => exact h.demandToken

theorem tableMoves (h : ClockLaw s) (moves : TableMoves s t) : ClockLaw t := by
  induction moves with
  | refl => exact h
  | tail _ last ih => exact ih.tableMove last

theorem createWait (h : ClockLaw s) (w : WaitSlot) (o : Owner) {r : AcquireRequest}
    (lasts : r.duration ≠ 0) (may : r.limit ≠ 0) : ClockLaw (s.createWait w o r) := by
  refine h.of_parts (fun n => ?_) (fun n => ?_) (fun j x held => .inl ?_) fun v x live => ?_
  · simp only [State.createWait]
    split <;> rfl
  · simp only [State.createWait]
    split
    · exact .refl _
    · exact State.settles_startClaim _ (.wait w) n may _
  · simp only [State.createWait] at held
    split at held <;> exact held
  · rw [State.wait_createWait] at live
    split at live
    · exact .inr (Option.some.inj live ▸ ⟨lasts, may⟩)
    · exact .inl live

/-- A lease renewed lasts as long as was asked, or as before (R31). -/
theorem renew (h : ClockLaw s) {i : LeaseSlot} {x : Lease} (d : Word) (held : s.lease i = some x)
    (active : x.state = .active) :
    ClockLaw ((s.setLease i (some { x with duration := some (x.renewed d) })).reloadClaim (.lease i)
      (x.renewed d)) := by
  have lasts : x.renewed d ≠ 0 := by
    obtain ⟨e, same, lasts⟩ := h.leases i x held active
    unfold Lease.renewed
    split
    · simpa [same] using lasts
    · assumption
  refine h.of_parts (fun n => rfl)
    (fun n => State.settles_reloadClaim (s.setLease i _) (.lease i) n lasts) (fun j y here => ?_)
    fun w y live => .inl live
  have slots := (State.lease_setLease s i j _).symm.trans here
  split at slots
  · exact .inr fun _ => ⟨x.renewed d, by rw [← Option.some.inj slots], lasts⟩
  · exact .inl slots

theorem freed (h : ClockLaw s) {item : WorkItem} (taken : s.servingItem item)
    (other : ∀ n, item.clocks n = false) : ClockLaw s.freed := by
  have service : s.inService = some (.internal item) := taken
  refine h.of_same (fun n => ?_) rfl rfl rfl rfl
  have items : s.items = item :: s.workList := by rw [State.items, service]
  rw [items, List.countP_cons_of_neg (by simp [other n])]
  rfl

theorem completes (h : ClockLaw s) {item : WorkItem} (other : ∀ n, item.clocks n = false) :
    ClockLaw (s.completes item) :=
  (h.appendItem other).of_same (fun _ => rfl) rfl rfl rfl rfl

/-- A countdown that alone may have run out without its item gets its item (R74). -/
theorem of_appendIfRunOut {n : CountdownName}
    (marks : ∀ m, s.items.countP (WorkItem.clocks m) = if (s.countdown m).mark then 1 else 0)
    (ended : ∀ m, m ≠ n → (s.countdown m).runOut = true → (s.countdown m).mark = true)
    (leases : ∀ i x, s.lease i = some x → x.timed) (waits : ∀ w x, s.wait w = some x → x.timed) :
    ClockLaw (s.appendIfRunOut n) := by
  unfold State.appendIfRunOut
  split
  case isTrue due =>
    simp only [Bool.and_eq_true, Bool.not_eq_true'] at due
    have clocks (m) : (s.appendClockItem n).countdown m
        = if m = n then { s.countdown n with mark := true } else s.countdown m := by
      rw [← State.countdown_setCountdown]
      cases m <;> rfl
    refine ⟨fun m => ?_, fun m out => ?_, fun i x held => leases i x ?_, fun w x live => waits w x ?_⟩
    · have items : (s.appendClockItem n).items = s.items ++ [clockItem n (s.countdown n).gen] := by
        rw [State.appendClockItem, State.items_appendItem, State.items_setCountdown]
      rw [items, List.countP_append, marks m, List.countP_singleton, WorkItem.clocks_clockItem, clocks]
      by_cases same : m = n
      · simp [same, due.2]
      · simp [same]
    · rw [clocks] at out ⊢
      split
      · rfl
      case isFalse other =>
        rw [if_neg other] at out
        exact ended m other out
    · rw [← held, State.appendClockItem]
      cases n <;> rfl
    · rw [← live, State.appendClockItem]
      cases n <;> rfl
  case isFalse quiet =>
    refine ⟨marks, fun m out => ?_, leases, waits⟩
    by_cases same : m = n
    · subst same
      simpa [out] using quiet
    · exact ended m same out

theorem appendIfRunOut (h : ClockLaw s) (n : CountdownName) : ClockLaw (s.appendIfRunOut n) :=
  of_appendIfRunOut h.marks (fun m _ => h.ended m) h.leases h.waits

/-- An item of the clock takes its countdown's mark with it (R74, R77, R79). -/
theorem endClockItem (h : ClockLaw s) {n : CountdownName} {g : Generation}
    (taken : s.servingItem (clockItem n g)) : ClockLaw (s.clearMark n).freed := by
  have service : s.inService = some (.internal (clockItem n g)) := taken
  have items : s.items = clockItem n g :: s.workList := by rw [State.items, service]
  let u := (s.setCountdown n { s.countdown n with mark := false }).freed
  have cleared : (s.clearMark n).freed = u.appendIfRunOut n := by
    unfold State.clearMark State.appendIfRunOut
    rw [apply_ite State.freed]
    cases n <;> rfl
  have clocks (m) : u.countdown m
      = if m = n then { s.countdown n with mark := false } else s.countdown m := by
    rw [← State.countdown_setCountdown]
    cases m <;> rfl
  have left : u.items = s.workList := by cases n <;> rfl
  rw [cleared]
  refine of_appendIfRunOut (fun m => ?_) (fun m other out => ?_) (fun i x held => h.leases i x ?_)
    fun w x live => h.waits w x ?_
  · have counts := h.marks m
    rw [items, List.countP_cons, WorkItem.clocks_clockItem] at counts
    rw [left, clocks]
    by_cases same : m = n
    · subst same
      simp only [BEq.rfl, if_true] at counts ⊢
      split at counts <;> simp_all
    · simpa [same] using counts
  · rw [clocks, if_neg other] at out ⊢
    exact h.ended m out
  · rw [← held]
    cases n <;> rfl
  · rw [← live]
    cases n <;> rfl

/-! #### A tick (R73) -/

theorem nodup_allCountdowns : allCountdowns.Nodup := by
  refine List.nodup_append.2 ⟨?_, ?_, fun a lease b wait same => ?_⟩
  · exact (List.nodup_finRange 256).map fun _ _ same => CountdownName.lease.inj same
  · exact (List.nodup_finRange 128).map fun _ _ same => CountdownName.wait.inj same
  · obtain ⟨i, -, rfl⟩ := List.mem_map.1 lease
    obtain ⟨w, -, rfl⟩ := List.mem_map.1 wait
    cases same

/-- The items of a tick stand for the countdowns that are due. -/
theorem countP_due (s : State) (n : CountdownName) :
    (s.dueAtTick.map s.itemOf).countP (WorkItem.clocks n) = if (s.countdown n).due then 1 else 0 := by
  have own : (WorkItem.clocks n ∘ s.itemOf) = fun m => n == m :=
    funext fun m => WorkItem.clocks_clockItem m n _
  have once : s.dueAtTick.Nodup := nodup_allCountdowns.filter _
  have count := once.count (a := n)
  rw [List.countP_map, own]
  simp only [State.mem_dueAtTick] at count
  rw [← count, List.count]
  exact List.countP_congr fun m _ => by simp only [beq_iff_eq, eq_comm (a := n)]

theorem mark_afterTick (c : Countdown) : c.afterTick.mark = (c.mark || c.due) := by
  unfold Countdown.afterTick
  cases due : c.due with
  | true => simp [Countdown.marked]
  | false =>
    simp only [Bool.false_eq_true, if_false, Countdown.tick, Bool.or_false]
    split <;> rfl

/-- A countdown that has run out after a tick was due, or had run out before. -/
theorem runOut_afterTick {c : Countdown} (out : c.afterTick.runOut = true) :
    c.due = true ∨ c.mark = true ∨ c.runOut = true := by
  rw [Countdown.afterTick_eq, Countdown.runOut_iff] at out
  split at out
  case isFalse => exact .inr (.inr ((Countdown.runOut_iff c).2 out))
  case isTrue counting =>
    have last : c.value = 1 := by
      have := out.2
      simp only at this
      bv_omega
    cases mark : c.mark with
    | true => exact .inr (.inl rfl)
    | false => exact .inl (by simp [Countdown.due, counting.1, last, mark])

theorem tickClock (h : ClockLaw s) : ClockLaw s.tickClock := by
  rw [State.tickClock_eq]
  have clocks (n) : ((s.ticked.withCountdowns fun n => (s.countdown n).afterTick).appendItems
      (s.dueAtTick.map s.itemOf)).countdown n = (s.countdown n).afterTick := by
    rw [State.countdown_appendItems, State.countdown_withCountdowns]
  refine ⟨fun n => ?_, fun n out => ?_, h.leases, h.waits⟩
  · have items : ((s.ticked.withCountdowns fun n => (s.countdown n).afterTick).appendItems
        (s.dueAtTick.map s.itemOf)).items = s.items ++ s.dueAtTick.map s.itemOf := by
      rw [State.items_appendItems]
      rfl
    rw [items, List.countP_append, h.marks, countP_due, clocks, mark_afterTick]
    cases mark : (s.countdown n).mark <;> simp [Countdown.due, mark]
  · rw [clocks] at out
    rw [clocks, mark_afterTick, Bool.or_eq_true]
    rcases runOut_afterTick out with due | marked | before
    · exact .inr due
    · exact .inl marked
    · exact .inl (h.ended n before)

theorem loadPins (h : ClockLaw s) (active : List (PinSlot × PinData)) :
    ClockLaw (active.foldl State.loadPin s) := by
  refine h.of_leases (fun n => ?_) ?_ ?_ ?_ fun i x held => ?_
  · rw [State.foldl_loadPin_eq]
    rfl
  · rw [State.foldl_loadPin_eq]
  · rw [State.foldl_loadPin_eq]
  · rw [State.foldl_loadPin_eq]
  · exact (State.lease_loadPins held).imp_right fun pinned active => by simp [pinned] at active

theorem work (h : ClockLaw s) (work : Work s t) : ClockLaw t := by
  cases work with
  | quiet unseen => exact h.of_bare unseen.bare
  | tables moves => exact (h.tableMoves moves).retire
  | grant o _ _ _ _ _ _ lasts => exact h.grantLease _ _ _ lasts
  | createWait o _ _ _ _ lasts may => exact h.createWait _ _ lasts may
  | demand => exact h.demandToken
  | acceptPin =>
    refine h.of_leases (fun _ => rfl) rfl rfl rfl fun j x held => ?_
    have slots := (State.lease_setLease s _ j _).symm.trans held
    split at slots
    · exact .inr (Option.some.inj slots ▸ fun active => by cases active)
    · exact .inl slots
  | @acceptUnpin client k r i =>
    exact (h.setLeaseState i (state := .unpinning) nofun).of_same (fun _ => rfl)
      rfl rfl rfl rfl
  | renew d held active => exact h.renew d held active

theorem giveUpPin (h : ClockLaw s) (e : PinOp) : ClockLaw (s.giveUpPin e) :=
  (h.removeLease e.leaseSlot).of_same (fun _ => rfl) rfl rfl rfl rfl

theorem move (h : ClockLaw s) (move : Move s t) : ClockLaw t := by
  cases move with
  | unseen same => exact h.of_bare same
  | work w => exact h.work w
  | tick => exact h.tickClock
  | runOut n => exact h.appendIfRunOut n
  | clockItem taken => exact h.endClockItem taken
  | @load begun active taken =>
    have serves : (active.foldl State.loadPin s).servingItem (.load begun active) := by
      rw [State.foldl_loadPin_eq]
      exact taken
    exact ((h.loadPins active).freed serves fun _ => rfl).of_same (fun _ => rfl)
      rfl rfl rfl rfl
  | arm taken | fault taken =>
    exact (h.freed taken fun _ => rfl).of_same (fun _ => rfl) rfl rfl
      rfl rfl
  | lostPinWrite taken | lostPinVoid taken => exact h.freed taken fun _ => rfl
  | @settlePin k e taken =>
    have settled : ClockLaw (s.settlePin e) := (h.setLeaseState e.leaseSlot (state := .pinned)
      nofun).of_same (fun _ => rfl) rfl rfl rfl rfl
    exact settled.freed taken fun _ => rfl
  | @keepPin k e taken =>
    have kept : ClockLaw (s.keepPin e) := (h.setLeaseState e.leaseSlot (state := .pinned)
      nofun).of_same (fun _ => rfl) rfl rfl rfl rfl
    exact kept.freed taken fun _ => rfl
  | @giveUpPin _ k e taken entry moves =>
    have given := h.giveUpPin e
    have freed : ClockLaw (s.giveUpPin e).freed := by
      have service : (s.giveUpPin e).inService = s.inService :=
        (s.undisturbed_removeLease e.leaseSlot).inService
      rcases taken with write | void
      · exact given.freed (service.trans write) fun _ => rfl
      · exact given.freed (service.trans void) fun _ => rfl
    exact (freed.tableMoves moves).retire
  | startUpLoad =>
    have loaded : ClockLaw { s with store := s.store.loaded s.cells } :=
      h.of_same (fun _ => rfl) rfl rfl rfl rfl
    exact loaded.appendItem fun _ => rfl
  | endAdvance | endPinWrite | endPinVoid =>
    refine completes ?_ fun n => ?_
    · exact h.of_same (fun _ => rfl) rfl rfl rfl rfl
    · rfl
  | startPending idle pending =>
    have waits : ClockLaw ((s.setController .idle).setPendingAdvance false) :=
      h.of_same (fun _ => rfl) rfl rfl rfl rfl
    rw [State.endOperation, if_pos pending]
    exact waits.startAdvance

/-- After a reset no countdown runs and no item stands. -/
theorem reset {cells : Cells} {unstated : Nat} {pending : List Instr} :
    ClockLaw { State.reset with cells := cells, unstated := unstated, pending := pending } where
  marks n := by cases n <;> simp [State.items, State.reset, State.countdown, Countdown.reset]
  ended n out := by cases n <;> simp [State.reset, State.countdown, Countdown.runOut, Countdown.reset] at out
  leases i x held := by simp [State.lease, State.reset] at held
  waits w x live := by simp [State.wait, State.reset] at live

end ClockLaw

/-- Settles O56: the law holds after a reset, and every move keeps it. -/
theorem everyStepKeepsTheClockLaw : Obligations.EveryStepKeepsTheClockLaw := by
  intro s t h stepped
  obtain ⟨u, answer, kept⟩ := step_keeps (P := ClockLaw) (fun _ _ _ _ _ => ClockLaw.reset)
    (fun _ _ h => h.of_same (fun _ => rfl) rfl rfl rfl rfl)
    (fun _ _ h => h.move) s h
  obtain rfl : u = t := by simpa using answer.symm.trans stepped
  exact kept

end
end Sys2Proof.Machine
end

section
/-! PROOFS. The course of the load (R111, R114, R115), move by move. -/

namespace Sys2Proof.Machine

section
variable {s t u : State}

/-! ### Items -/

theorem State.items_of_serving {item : WorkItem} (taken : s.servingItem item) :
    s.items = item :: s.workList := by
  have service : s.inService = some (.internal item) := taken
  rw [State.items, service]

/-- The items are those of before, with items of the clock behind them (R73, R74). -/
def State.gainsClockItems (s t : State) : Prop :=
  ∃ new : List (CountdownName × Generation), t.items = s.items ++ new.map fun x => clockItem x.1 x.2

theorem State.gainsClockItems_tick (s : State) : s.gainsClockItems s.tickClock := by
  refine ⟨s.dueAtTick.map fun n => (n, (s.countdown n).gen), ?_⟩
  rw [State.tickClock_eq, State.items_appendItems, List.map_map]
  rfl

theorem State.gainsClockItems_appendIfRunOut (s : State) (n : CountdownName) :
    s.gainsClockItems (s.appendIfRunOut n) := by
  unfold State.appendIfRunOut
  split
  · refine ⟨[(n, (s.countdown n).gen)], ?_⟩
    rw [State.appendClockItem, State.items_appendItem, State.items_setCountdown]
    rfl
  · exact ⟨[], (List.append_nil _).symm⟩

theorem State.gainsClockItems_clearMark (s : State) (n : CountdownName) :
    s.gainsClockItems (s.clearMark n) := by
  obtain ⟨new, items⟩ := (s.setCountdown n
    { s.countdown n with mark := false }).gainsClockItems_appendIfRunOut n
  exact ⟨new, items.trans (by rw [State.items_setCountdown])⟩

theorem State.gainsClockItems.countP (h : s.gainsClockItems t) {p : WorkItem → Bool}
    (other : ∀ n g, p (clockItem n g) = false) : t.items.countP p = s.items.countP p := by
  obtain ⟨new, items⟩ := h
  have none : (new.map fun x => clockItem x.1 x.2).countP p = 0 :=
    List.countP_eq_zero.2 fun item mem => by
      obtain ⟨x, -, rfl⟩ := List.mem_map.1 mem
      simp [other]
  rw [items, List.countP_append, none]
  rfl

theorem State.gainsClockItems.mem (h : s.gainsClockItems t) {item : WorkItem}
    (other : ∀ n g, item ≠ clockItem n g) (mem : item ∈ t.items) : item ∈ s.items := by
  obtain ⟨new, items⟩ := h
  rw [items, List.mem_append] at mem
  refine mem.resolve_right fun clock => ?_
  obtain ⟨x, -, same⟩ := List.mem_map.1 clock
  exact other _ _ same.symm

theorem State.items_freed (s : State) : s.freed.items = s.workList := rfl

theorem State.countP_freed_le (s : State) (p : WorkItem → Bool) :
    s.freed.items.countP p ≤ s.items.countP p := s.countP_workList_le p

theorem State.mem_items_of_freed {item : WorkItem} (mem : item ∈ s.freed.items) :
    item ∈ s.items := by
  have listed : item ∈ s.workList := mem
  unfold State.items
  split
  · exact List.mem_cons_of_mem _ listed
  all_goals exact listed

theorem State.advances_freed_le (s : State) : s.freed.advances ≤ s.advances :=
  Nat.add_le_add_left (s.countP_freed_le _) _

theorem State.items_completes (s : State) (item : WorkItem) :
    (s.completes item).items = s.items ++ [item] := s.items_appendItem item

/-- An operation's end is no advance more, when its item is none (R104). -/
theorem State.advances_completes_le (s : State) {item : WorkItem} (other : item.isAdvance = false) :
    (s.completes item).advances ≤ s.advances := by
  simp only [State.advances, State.items_completes, List.countP_append, List.countP_singleton, other]
  exact Nat.add_le_add_right (Nat.add_le_add_right (Nat.zero_le _) _) _

theorem State.course_bare (s : State) : s.bare.course = s.course := rfl

theorem State.course_of_bare (same : t.bare = s.bare) : t.course = s.course := by
  rw [← t.course_bare, same, s.course_bare]

/-! ### The law -/

namespace LoadLaw

/-- The law passes to a state of the same phase with no more loads, that a part in its load sees unchanged. -/
theorem mono (h : LoadLaw s) (loading : t.loading = s.loading)
    (reading : t.store.controller = .loading → s.store.controller = .loading)
    (loads : t.loads ≤ s.loads)
    (calm : s.loading = true →
      t.creation = [] ∧ t.tokens = s.tokens ∧ t.advances ≤ s.advances) : LoadLaw t where
  once := loads.trans h.once
  reading r := by
    obtain ⟨isLoading, none⟩ := h.reading (reading r)
    exact ⟨loading.trans isLoading, by omega⟩
  waiting w := loading.trans (h.waiting (w.trans_le loads))
  calm l := by
    obtain ⟨-, unit, none⟩ := h.calm (loading.symm.trans l)
    obtain ⟨creation, tokens, advances⟩ := calm (loading.symm.trans l)
    exact ⟨creation, tokens.trans unit, by omega⟩

theorem of_course (h : LoadLaw s) (same : t.course = s.course) : LoadLaw t := by
  obtain ⟨once, reading, waiting, calm⟩ := h
  simp only [State.course, Course.mk.injEq] at same
  obtain ⟨creation, -, tokens, loading, controller, loads, advances⟩ := same
  refine ⟨?_, ?_, ?_, ?_⟩
  all_goals simpa only [creation, tokens, loading, controller, loads, advances]

/-- The law of a part that has loaded. -/
theorem of_loaded (loading : t.loading = false) (read : t.store.controller ≠ .loading)
    (loads : t.loads = 0) : LoadLaw t where
  once := by omega
  reading r := absurd r read
  waiting w := by omega
  calm l := by simp [loading] at l

theorem no_load (h : LoadLaw s) (loaded : s.loading = false) : s.loads = 0 := by
  by_contra some
  have := h.waiting (by omega)
  simp [loaded] at this

theorem read (h : LoadLaw s) (loaded : s.loading = false) : s.store.controller ≠ .loading :=
  fun r => Bool.false_ne_true (loaded.symm.trans (h.reading r).1)

/-- What touches the load neither by its items nor by the controller keeps the law of a part that has loaded. -/
theorem keep_loaded (h : LoadLaw s) (loaded : s.loading = false) (loading : t.loading = s.loading)
    (reading : t.store.controller = .loading → s.store.controller = .loading)
    (loads : t.loads ≤ s.loads) : LoadLaw t :=
  h.mono loading reading loads fun l => absurd (loaded.symm.trans l) Bool.false_ne_true

/-- An advance asked of the store says that the part has loaded. -/
theorem loaded_of_advance (h : LoadLaw s) (asked : 0 < s.advances) : s.loading = false := by
  by_contra loading
  obtain ⟨-, -, none⟩ := h.calm (by simpa using loading)
  omega

theorem freed (h : LoadLaw s) : LoadLaw s.freed :=
  h.mono rfl id (s.countP_freed_le _) fun l => ⟨(h.calm l).1, rfl, s.advances_freed_le⟩

theorem removeWait (h : LoadLaw s) (w : WaitSlot) : LoadLaw (s.removeWait w) := by
  rw [State.removeWait_eq]
  cases s.wait w with
  | none => exact h
  | some x =>
    refine h.mono rfl id le_rfl fun l => ⟨?_, rfl, le_rfl⟩
    rw [(h.calm l).1]
    rfl

theorem grantLease (h : LoadLaw s) (ready : s.tokens.state = .ready) (i : LeaseSlot) (o : Owner)
    (set : List Entry) (d : Word) : LoadLaw (s.grantLease i o set d) :=
  h.mono rfl id le_rfl fun l => by
    have := (h.calm l).2.1
    rw [this] at ready
    cases ready

theorem demandToken (h : LoadLaw s) (waits : s.loading = true → s.creation ≠ []) :
    LoadLaw s.demandToken := by
  have loading : s.demandToken.loading = s.loading := by rw [State.demandToken_eq]
  exact h.mono loading s.demandToken_frame.2 s.demandToken_frame.1.le fun l =>
    absurd (h.calm l).1 (waits l)

theorem tableMove (h : LoadLaw s) (move : TableMove s t) : LoadLaw t := by
  cases move with
  | quiet unseen => exact h.of_course (State.course_of_bare unseen.bare)
  | removeLease i => exact h.of_course (s.course_removeLease i)
  | removeWait w => exact h.removeWait w
  | shareLease => exact h.of_course (s.course_shareLease _ _)
  | @grant w x i _ _ _ _ ready =>
    have tokens : (s.removeWait w).tokens = s.tokens := (s.removeWait_frame w).1
    exact (h.removeWait w).grantLease (tokens ▸ ready) _ _ _ _
  | demand waits => exact h.demandToken waits

theorem tableMoves (h : LoadLaw s) (moves : TableMoves s t) : LoadLaw t := by
  induction moves with
  | refl => exact h
  | tail _ last ih => exact ih.tableMove last

theorem work (h : LoadLaw s) (work : Work s t) : LoadLaw t := by
  cases work with
  | quiet unseen => exact h.of_course (State.course_of_bare unseen.bare)
  | tables moves => exact (h.tableMoves moves).of_course (State.course_retire _)
  | grant o _ _ ready => exact h.grantLease ready _ _ _ _
  | createWait o loaded =>
    obtain ⟨x, course⟩ := s.createWait_frame _ o _
    have loading := congrArg Course.loading course
    have controller := congrArg Course.controller course
    have loads := congrArg Course.loads course
    exact h.keep_loaded loaded loading controller.symm.trans loads.le
  | demand loaded => exact h.demandToken fun l => absurd (loaded.symm.trans l) Bool.false_ne_true
  | acceptPin _ loaded | acceptUnpin _ loaded => exact h.keep_loaded loaded rfl nofun le_rfl
  | renew => exact h.of_course (by simp)

theorem startAdvance (h : LoadLaw s) (loaded : s.loading = false) : LoadLaw s.startAdvance := by
  obtain ⟨loads, started⟩ := s.startAdvance_frame
  refine h.keep_loaded loaded ?_ (fun r => absurd r started) loads.le
  unfold State.startAdvance
  split <;> rfl

/-- The end of an operation other than the reading. -/
theorem completes (h : LoadLaw s) {item : WorkItem} (load : item.isLoad = false)
    (advances : s.loading = true → (s.completes item).advances ≤ s.advances) :
    LoadLaw (s.completes item) := by
  refine h.mono rfl nofun ?_ fun l => ⟨(h.calm l).1, rfl, advances l⟩
  have loads := s.loads_appendItem item
  rw [load] at loads
  exact loads.le

theorem advances_pos_of_busy {n : Nat} (busy : s.store.controller = .busyAdvance n) :
    0 < s.advances := by
  simp only [State.advances, busy]
  omega

theorem advances_pos_of_pending (pending : s.store.pendingAdvance = true) : 0 < s.advances := by
  simp only [State.advances, pending, if_true]
  omega

theorem advances_pos_of_serving {n : Nat} {r : StepResult} (taken : s.servingItem (.advance n r)) :
    0 < s.advances := by
  simp only [State.advances, State.items_of_serving taken, List.countP_cons, WorkItem.isAdvance,
    if_true]
  omega

theorem move (h : LoadLaw s) (move : Move s t) : LoadLaw t := by
  cases move with
  | unseen same => exact h.of_course (State.course_of_bare same)
  | work w => exact h.work w
  | tick => exact h.of_course s.course_tickClock
  | runOut n => exact h.of_course (s.course_appendIfRunOut n)
  | clockItem => exact (h.of_course (s.course_clearMark _)).freed
  | @load begun active taken =>
    have one : s.loads = 1 + s.workList.countP WorkItem.isLoad := by
      rw [State.loads, State.items_of_serving taken, List.countP_cons, Nat.add_comm]
      rfl
    have once := h.once
    have read : s.store.controller ≠ .loading := fun r => by
      have := (h.reading r).2
      omega
    rw [State.foldl_loadPin_eq]
    refine of_loaded rfl read ?_
    change s.workList.countP WorkItem.isLoad = 0
    omega
  | arm taken | fault taken =>
    have loaded := h.loaded_of_advance (advances_pos_of_serving taken)
    exact h.keep_loaded loaded rfl id (s.countP_freed_le _)
  | lostPinWrite | lostPinVoid => exact h.freed
  | settlePin => exact LoadLaw.freed (h.of_course rfl)
  | keepPin => exact LoadLaw.freed (h.of_course rfl)
  | @giveUpPin _ k e _ _ moves =>
    have given : LoadLaw (s.giveUpPin e) := h.of_course (s.course_removeLease e.leaseSlot)
    exact (given.freed.tableMoves moves).of_course (State.course_retire _)
  | startUpLoad reading =>
    obtain ⟨loading, none⟩ := h.reading reading
    obtain ⟨noWait, unit, noAdvance⟩ := h.calm loading
    have loads := State.loads_appendItem { s with store := s.store.loaded s.cells }
      (.load s.cells.begunCount s.cells.activeSlots)
    have same : ({ s with store := s.store.loaded s.cells } : State).loads = s.loads := rfl
    refine ⟨by rw [loads, same, none]; rfl, nofun, fun _ => loading, fun _ => ⟨noWait, unit, ?_⟩⟩
    rw [State.advances_appendItem]
    simp only [State.advances, reading] at noAdvance
    exact noAdvance
  | endAdvance busy =>
    have loaded := h.loaded_of_advance (advances_pos_of_busy busy)
    refine completes (h.of_course (s.course_setEpochMarks _ _)) rfl fun l => ?_
    have loading : s.loading = true := l
    simp [loaded] at loading
  | @endPinWrite k _ dataStep validStep x =>
    let u := (s.setPinCells k x).setSlotEntry k (s.store.slots[k].written dataStep validStep)
    exact completes (s := u) (h.of_course rfl) rfl fun _ => u.advances_completes_le rfl
  | @endPinVoid k _ voidStep x =>
    let u := (s.setPinCells k x).setSlotEntry k { s.store.slots[k] with state := .void }
    exact completes (s := u) (h.of_course rfl) rfl fun _ => u.advances_completes_le rfl
  | startPending idle pending =>
    have loaded := h.loaded_of_advance (advances_pos_of_pending pending)
    rw [State.endOperation, if_pos pending]
    exact startAdvance (h.keep_loaded loaded rfl nofun le_rfl) loaded

theorem reset {cells : Cells} {unstated : Nat} {pending : List Instr} :
    LoadLaw { State.reset with cells := cells, unstated := unstated, pending := pending } :=
  (EndedUnitLaw.deviceReset cells unstated pending).load

end LoadLaw
end
end Sys2Proof.Machine
end

section
/-! PROOFS. Law 4 within a power cycle (R94), move by move: tokens are issued in rising order. -/

namespace Sys2Proof.Machine

section
variable {s t u : State}

/-! ### The begun count (R101, R112) -/

/-- The highest begun step of a list, counted from a number on. -/
theorem begunCount_foldl (d : List (Nat × EpochMarks)) (a : Nat) :
    d.foldl (fun n e => if e.2.beginMark == .blank then n else max n e.1) a
      = max a (d.foldl (fun n e => if e.2.beginMark == .blank then n else max n e.1) 0) := by
  induction d generalizing a with
  | nil => simp
  | cons e rest ih =>
    simp only [List.foldl_cons]
    rw [ih, ih (if e.2.beginMark == .blank then 0 else max 0 e.1)]
    split <;> omega

theorem Cells.begunCount_cons (e : Nat × EpochMarks) (d : List (Nat × EpochMarks))
    (pins : Vector PinCells 24) (serial : BitVec 96) :
    (Cells.mk (e :: d) pins serial).begunCount
      = max (if e.2.beginMark = .blank then 0 else e.1) (Cells.mk d pins serial).begunCount := by
  simp only [Cells.begunCount, List.foldl_cons]
  rw [begunCount_foldl]
  simp

/-- A begin mark that is written counts its step as begun, and no other (R101, R112). -/
theorem Cells.begunCount_putEpochMarks (d : List (Nat × EpochMarks)) (pins : Vector PinCells 24)
    (serial : BitVec 96) (n : Nat) {m : EpochMarks} (begun : m.beginMark ≠ .blank) :
    (Cells.mk (putEpochMarks n m d) pins serial).begunCount
      = max (Cells.mk d pins serial).begunCount n := by
  have some : m ≠ .blank := fun none => begun (none ▸ rfl)
  induction d with
  | nil => simp [putEpochMarks, some, Cells.begunCount, begun]
  | cons e rest ih =>
    unfold putEpochMarks
    split
    · rw [Cells.begunCount_cons, if_neg begun]
      omega
    · split
      case isTrue same =>
        rw [Cells.begunCount_cons, Cells.begunCount_cons, if_neg begun]
        split <;> omega
      case isFalse =>
        rw [Cells.begunCount_cons, ih, Cells.begunCount_cons]
        omega

theorem State.begunCount_setEpochMarks (s : State) (n : Nat) {m : EpochMarks}
    (begun : m.beginMark ≠ .blank) :
    (s.setEpochMarks n m).cells.begunCount = max s.cells.begunCount n :=
  Cells.begunCount_putEpochMarks _ _ _ n begun

/-! ### The advances asked (R86, R104) -/

/-- The advances that the controller runs. -/
def Controller.advancing : Controller → Nat
  | .busyAdvance _ => 1
  | .loading | .idle | .busyPinWrite _ | .busyPinVoid _ => 0

theorem State.advances_eq (s : State) : s.advances = s.store.controller.advancing
    + (if s.store.pendingAdvance then 1 else 0) + s.items.countP WorkItem.isAdvance := by
  unfold State.advances
  cases s.store.controller <;> rfl

theorem State.advances_eq_zero : s.advances = 0 ↔ s.store.controller.advancing = 0
    ∧ s.store.pendingAdvance = false ∧ s.items.countP WorkItem.isAdvance = 0 := by
  rw [State.advances_eq, Nat.add_eq_zero_iff, Nat.add_eq_zero_iff, and_assoc]
  cases s.store.pendingAdvance <;> simp

theorem State.advances_le (controller : t.store.controller.advancing ≤ s.store.controller.advancing)
    (pending : t.store.pendingAdvance = s.store.pendingAdvance)
    (items : t.items.countP WorkItem.isAdvance ≤ s.items.countP WorkItem.isAdvance) :
    t.advances ≤ s.advances := by
  rw [State.advances_eq, State.advances_eq, pending]
  omega

/-- With no advance running, the step that the store has done stands on the list. -/
theorem State.advancingTo_of_idle {n : Nat} (idle : t.store.controller.advancing = 0)
    (items : .advance n .good ∈ t.items → .advance n .good ∈ s.items) (going : t.advancingTo n) :
    s.advancingTo n := by
  rcases going with busy | item
  · simp [busy, Controller.advancing] at idle
  · exact .inr (items item)

/-! ### The token unit (R83, R89) -/

theorem Token.toNat_make (epoch : BitVec 16) (serial : BitVec 24) :
    (Token.make epoch serial).toNat = epoch.toNat * 16777216 + serial.toNat := by
  have below : serial.toNat < 2 ^ 24 := serial.isLt
  rw [Token.make, BitVec.toNat_append, ← Nat.shiftLeft_add_eq_or_of_lt below, Nat.shiftLeft_eq]

theorem TokenUnit.toNat_next (u : TokenUnit) :
    u.next.toNat = u.epoch.toNat * 16777216 + u.serial.toNat := Token.toNat_make _ _

theorem TokenUnit.bound_of_ready {u : TokenUnit} (ready : u.state = .ready) :
    u.bound = u.epoch.toNat * 16777216 + u.serial.toNat := by
  rw [TokenUnit.bound, ready]
  exact u.toNat_next

theorem TokenUnit.bound_of_not_ready {u : TokenUnit} (other : u.state ≠ .ready) :
    u.bound = (u.epoch.toNat + 1) * 16777216 := by
  unfold TokenUnit.bound
  split
  case h_1 ready => exact absurd ready other
  all_goals rfl

/-- The unit after an issue: in READY with the next serial, or without one (R89). -/
theorem TokenUnit.issue_cases {u : TokenUnit} (ready : u.state = .ready) :
    u.issue.epoch = u.epoch
      ∧ (u.issue.state = .ready ∧ u.serial ≠ 16777215 ∧ u.issue.serial = u.serial + 1
        ∨ u.issue.state ≠ .ready ∧ u.issue.state ≠ .advancing ∧ u.serial = 16777215
          ∧ u.issue.serial = 0) := by
  unfold TokenUnit.issue
  simp only [ready]
  split
  case isTrue more => exact ⟨rfl, .inl ⟨rfl, by simpa using more, rfl⟩⟩
  case isFalse last =>
    have last : u.serial = 16777215 := by simpa using last
    split <;> exact ⟨rfl, .inr ⟨nofun, nofun, last, rfl⟩⟩

/-- The next token rises by one with every issue, over an epoch's end too (R83, R89). -/
theorem TokenUnit.bound_issue {u : TokenUnit} (ready : u.state = .ready) :
    u.issue.bound = u.bound + 1 := by
  obtain ⟨epoch, ⟨still, more, serial⟩ | ⟨ended, -, last, -⟩⟩ := TokenUnit.issue_cases ready
  · rw [TokenUnit.bound_of_ready still, TokenUnit.bound_of_ready ready, epoch, serial]
    bv_omega
  · rw [TokenUnit.bound_of_not_ready ended, TokenUnit.bound_of_ready ready, epoch, last]
    have serial : (16777215 : BitVec 24).toNat = 16777215 := rfl
    omega

/-! ### Rising tokens -/

/-- The lease is ACTIVE and carries the token. -/
def State.carries (s : State) (i : LeaseSlot) (token : Token) : Prop :=
  ∃ x, s.lease i = some x ∧ x.state = .active ∧ x.token = token

/-- The next token does not fall, and the tokens of new ACTIVE leases are not below it. -/
structure Rises (s t : State) : Prop where
  bound : s.tokens.bound ≤ t.tokens.bound
  fresh : ∀ i token, t.carries i token → (∃ j, s.carries j token) ∨ s.tokens.bound ≤ token.toNat

theorem Rises.refl (s : State) : Rises s s := ⟨le_rfl, fun i _ held => .inl ⟨i, held⟩⟩

theorem Rises.trans (h : Rises s t) (k : Rises t u) : Rises s u where
  bound := h.bound.trans k.bound
  fresh i token held := by
    rcases k.fresh i token held with ⟨j, old⟩ | new
    · exact h.fresh j token old
    · exact .inr (h.bound.trans new)

/-- No ACTIVE lease that was none, and none with another token in its slot. -/
def State.keepsTokens (s t : State) : Prop := ∀ i token, t.carries i token → s.carries i token

theorem State.keepsTokens_of_leases (leases : t.leases = s.leases) : s.keepsTokens t := by
  intro i token held
  simpa only [State.carries, State.lease, leases] using held

/-- A lease put into a slot that is not ACTIVE, or was there with its token and state. -/
theorem State.keepsTokens_setLease {i : LeaseSlot} {y : Option Lease}
    (own : ∀ x, y = some x → x.state = .active → s.carries i x.token) :
    s.keepsTokens (s.setLease i y) := by
  rintro j token ⟨x, held, active, rfl⟩
  rw [State.lease_setLease] at held
  split at held
  case isTrue same => exact same ▸ own x held active
  case isFalse => exact ⟨x, held, active, rfl⟩

theorem State.keepsTokens_removeLease (s : State) (i : LeaseSlot) :
    s.keepsTokens (s.removeLease i) := by
  rintro j token ⟨x, held, active, rfl⟩
  rw [State.lease_removeLease] at held
  split at held
  · cases held
  · exact ⟨x, held, active, rfl⟩

theorem State.keepsTokens_setLeaseState (s : State) (i : LeaseSlot) {state : LeaseState}
    (inactive : state ≠ .active) : s.keepsTokens (s.setLeaseState i state) := by
  refine State.keepsTokens_setLease fun x changed active => ?_
  obtain ⟨y, -, rfl⟩ := Option.map_eq_some_iff.1 changed
  exact absurd active inactive

/-! ### Law 4 (R94) -/

namespace TokenLaw

theorem carried_below (h : TokenLaw s) {i : LeaseSlot} {token : Token} (held : s.carries i token) :
    token ≠ 0 ∧ token.toNat < s.tokens.bound := by
  obtain ⟨x, held, active, rfl⟩ := held
  exact h.below i x held active

theorem carried_once (h : TokenLaw s) {i j : LeaseSlot} {token : Token} (one : s.carries i token)
    (other : s.carries j token) : i = j := by
  obtain ⟨x, heldX, activeX, rfl⟩ := one
  obtain ⟨y, heldY, activeY, same⟩ := other
  exact h.distinct i j x y heldX heldY activeX activeY same.symm

/-- What asks no advance more and changes no token keeps Law 4. -/
theorem of_parts (h : TokenLaw s) (load : LoadLaw t) (tokens : t.tokens = s.tokens)
    (kept : s.keepsTokens t) (advances : t.advances ≤ s.advances)
    (steps : ∀ n, t.advancingTo n → s.advancingTo n) (begun : t.store.begun = s.store.begun)
    (counted : t.store.controller ≠ .loading → t.store.begun = t.cells.begunCount) :
    TokenLaw t where
  load := load
  once := advances.trans h.once
  asked other := by
    have := h.asked (tokens ▸ other)
    omega
  serial other := by
    rw [tokens] at other ⊢
    exact h.serial other
  ready r := by
    rw [tokens] at r ⊢
    exact h.ready r
  epoch := by
    rw [tokens, begun]
    exact h.epoch
  steps n going := by
    rw [tokens, begun]
    exact h.steps n (steps n going)
  counted := counted
  below i x held active := by
    rw [tokens]
    exact h.carried_below (kept i x.token ⟨x, held, active, rfl⟩)
  distinct i j x y heldX heldY activeX activeY same :=
    h.carried_once (kept i x.token ⟨x, heldX, activeX, rfl⟩)
      (kept j x.token ⟨y, heldY, activeY, same.symm⟩)

/-- What changes of the store, the items and the epoch cells nothing, and no token. -/
theorem of_same (h : TokenLaw s) (load : LoadLaw t) (tokens : t.tokens = s.tokens)
    (kept : s.keepsTokens t) (store : t.store = s.store) (items : t.items = s.items)
    (cells : t.cells.epochs = s.cells.epochs) : TokenLaw t := by
  refine h.of_parts load tokens kept ?_ (fun n going => ?_) (by rw [store]) fun read => ?_
  · simp only [State.advances, store, items, le_refl]
  · simpa only [State.advancingTo, store, items] using going
  · rw [store] at read ⊢
    rw [h.counted read, Cells.begunCount, Cells.begunCount, cells]

theorem of_bare (h : TokenLaw s) (same : t.bare = s.bare) : TokenLaw t := by
  have bare : TokenLaw s.bare :=
    h.of_parts (h.load.of_course rfl) rfl (State.keepsTokens_of_leases rfl) le_rfl
      (fun _ => id) rfl h.counted
  rw [← same] at bare
  exact bare.of_parts (bare.load.of_course rfl) rfl (State.keepsTokens_of_leases rfl) le_rfl
    (fun _ => id) rfl bare.counted

end TokenLaw

theorem Rises.of_keeps (tokens : t.tokens = s.tokens) (kept : s.keepsTokens t) : Rises s t :=
  ⟨by rw [tokens], fun i token held => .inl ⟨i, kept i token held⟩⟩

/-- Law 4, and that the tokens have risen. -/
def TokenStep (s t : State) : Prop := TokenLaw t ∧ Rises s t

theorem TokenStep.trans (h : TokenStep s t) (k : TokenLaw t → TokenStep t u) : TokenStep s u :=
  ⟨(k h.1).1, h.2.trans (k h.1).2⟩

namespace TokenLaw

theorem step_of_parts (h : TokenLaw s) (load : LoadLaw t) (tokens : t.tokens = s.tokens)
    (kept : s.keepsTokens t) (advances : t.advances ≤ s.advances)
    (steps : ∀ n, t.advancingTo n → s.advancingTo n) (begun : t.store.begun = s.store.begun)
    (counted : t.store.controller ≠ .loading → t.store.begun = t.cells.begunCount) :
    TokenStep s t :=
  ⟨h.of_parts load tokens kept advances steps begun counted, .of_keeps tokens kept⟩

theorem step_of_same (h : TokenLaw s) (load : LoadLaw t) (tokens : t.tokens = s.tokens)
    (kept : s.keepsTokens t) (store : t.store = s.store) (items : t.items = s.items)
    (cells : t.cells.epochs = s.cells.epochs) : TokenStep s t :=
  ⟨h.of_same load tokens kept store items cells, .of_keeps tokens kept⟩

theorem step_of_bare (h : TokenLaw s) (same : t.bare = s.bare) : TokenStep s t := by
  have tokens : t.bare.tokens = s.bare.tokens := congrArg State.tokens same
  have leases : t.bare.leases = s.bare.leases := congrArg State.leases same
  exact ⟨h.of_bare same, .of_keeps tokens (State.keepsTokens_of_leases leases)⟩

/-- A removal of a lease takes its token out of the ACTIVE ones. -/
theorem removeLease (h : TokenLaw s) (i : LeaseSlot) : TokenStep s (s.removeLease i) := by
  have load := h.load.of_course (s.course_removeLease i)
  have kept := s.keepsTokens_removeLease i
  rw [State.removeLease_eq] at load kept ⊢
  cases held : s.lease i with
  | none => exact ⟨h, .refl s⟩
  | some x =>
    rw [held] at load kept
    exact h.step_of_same load rfl kept rfl rfl rfl

theorem removeWait (h : TokenLaw s) (w : WaitSlot) : TokenStep s (s.removeWait w) := by
  have load := h.load.removeWait w
  rw [State.removeWait_eq] at load ⊢
  cases live : s.wait w with
  | none => exact ⟨h, .refl s⟩
  | some x =>
    rw [live] at load
    exact h.step_of_same load rfl (State.keepsTokens_of_leases rfl) rfl rfl rfl

/-- The token of a grant is the next one, above every token in use (R89, R94). -/
theorem grantLease (h : TokenLaw s) (ready : s.tokens.state = .ready) (i : LeaseSlot) (o : Owner)
    (set : List Entry) (d : Word) : TokenStep s (s.grantLease i o set d) := by
  obtain ⟨epochSome, serialSome⟩ := h.ready ready
  have bound : s.tokens.next.toNat = s.tokens.bound := by
    rw [TokenUnit.bound, ready]
  have rises : (s.grantLease i o set d).tokens.bound = s.tokens.bound + 1 :=
    TokenUnit.bound_issue ready
  have carries (j token) (held : (s.grantLease i o set d).carries j token) :
      j = i ∧ token = s.tokens.next ∨ j ≠ i ∧ s.carries j token := by
    obtain ⟨x, held, active, rfl⟩ := held
    rw [State.lease_grantLease] at held
    split at held
    case isTrue same => exact .inl ⟨same, Option.some.inj held ▸ rfl⟩
    case isFalse other => exact .inr ⟨other, x, held, active, rfl⟩
  have noAdvance : s.advances = 0 := h.asked (by simp [ready])
  obtain ⟨epoch, unit⟩ := TokenUnit.issue_cases ready
  refine ⟨?_, by omega, fun j token held => ?_⟩
  · refine ⟨h.load.grantLease ready _ _ _ _, h.once, fun _ => noAdvance, fun other => ?_, fun still => ?_,
      ?_, fun n going => ?_, h.counted, fun j x held active => ?_, fun j k x y hx hy ax ay same => ?_⟩
    · rcases unit with ⟨still, -⟩ | ⟨-, -, -, serial⟩
      · exact absurd still other
      · exact serial
    · rcases unit with ⟨-, more, serial⟩ | ⟨ended, -⟩
      · refine ⟨fun none => epochSome (epoch.symm.trans none), fun none => more ?_⟩
        have := serial.symm.trans none
        bv_omega
      · exact absurd still ended
    · exact (congrArg BitVec.toNat epoch).trans_le h.epoch
    · obtain ⟨above, begun⟩ := h.steps n going
      exact ⟨(congrArg BitVec.toNat epoch).trans_lt above, begun⟩
    · rw [rises]
      rcases carries j x.token ⟨x, held, active, rfl⟩ with ⟨-, new⟩ | ⟨-, old⟩
      · rw [new, bound]
        refine ⟨fun none => serialSome ?_, Nat.lt_succ_self _⟩
        have zero := congrArg BitVec.toNat none
        rw [TokenUnit.toNat_next, show (0 : Token).toNat = 0 from rfl] at zero
        bv_omega
      · obtain ⟨some, below⟩ := h.carried_below old
        exact ⟨some, below.trans (Nat.lt_succ_self _)⟩
    · rcases carries j x.token ⟨x, hx, ax, rfl⟩ with ⟨jHere, new⟩ | ⟨-, old⟩ <;>
        rcases carries k x.token ⟨y, hy, ay, same.symm⟩ with ⟨kHere, newK⟩ | ⟨-, oldK⟩
      · rw [jHere, kHere]
      · have := (h.carried_below oldK).2
        rw [new, bound] at this
        exact absurd this (lt_irrefl _)
      · have := (h.carried_below old).2
        rw [newK, bound] at this
        exact absurd this (lt_irrefl _)
      · exact h.carried_once old oldK
  · rcases carries j token held with ⟨-, rfl⟩ | ⟨-, old⟩
    · exact .inr bound.ge
    · exact .inl ⟨j, old⟩

/-! #### Advances (R86, R104, R107) -/

/-- An advance starts, none being asked but by the unit: its step is the one after the begun count (R107). -/
theorem startAdvance (h : TokenLaw s) (unit : s.tokens.state = .advancing) (none : s.advances = 0)
    (loaded : s.loading = false) : TokenStep s s.startAdvance := by
  have load := h.load.startAdvance loaded
  have counted := h.counted (h.load.read loaded)
  obtain ⟨-, notPending, items⟩ := State.advances_eq_zero.1 none
  have noItem (n) : WorkItem.advance n .good ∉ s.items := fun mem =>
    List.countP_eq_zero.1 items _ mem rfl
  have epoch := h.epoch
  unfold State.startAdvance at load ⊢
  split
  case isTrue more =>
    rw [if_pos more] at load
    have begun := s.begunCount_setEpochMarks (s.store.begun + 1) (m := ⟨.partly, .blank⟩) nofun
    refine ⟨⟨load, ?_, fun other => absurd unit other, h.serial, h.ready, epoch.trans (Nat.le_succ _),
      fun n going => ?_, fun _ => ?_, h.below, h.distinct⟩, .of_keeps rfl (State.keepsTokens_of_leases rfl)⟩
    · rw [State.advances_eq]
      change 1 + (if s.store.pendingAdvance then 1 else 0) + s.items.countP WorkItem.isAdvance ≤ 1
      rw [notPending, items]
      exact le_rfl
    · rcases going with busy | item
      · obtain rfl := Controller.busyAdvance.inj busy
        exact ⟨Nat.lt_succ_of_le epoch, le_rfl, more⟩
      · exact absurd item (noItem n)
    · refine Eq.trans ?_ begun.symm
      rw [← counted]
      exact (max_eq_right (Nat.le_succ _)).symm
  case isFalse last =>
    rw [if_neg last] at load
    refine ⟨⟨load, ?_, fun other => absurd unit other, h.serial, h.ready, epoch, fun n going => ?_,
      fun _ => counted, h.below, h.distinct⟩, .of_keeps rfl (State.keepsTokens_of_leases rfl)⟩
    · rw [State.advances_appendItem, State.advances_eq]
      change 0 + (if s.store.pendingAdvance then 1 else 0) + s.items.countP WorkItem.isAdvance + 1 ≤ 1
      rw [notPending, items]
      exact le_rfl
    · refine h.steps n (State.advancingTo_of_idle rfl (fun item => ?_) going)
      rw [State.items_appendItem, List.mem_append, List.mem_singleton] at item
      exact item.elim id fun new => by cases new

/-- An advance is held pending behind a pin operation (R105). -/
theorem holdAdvance (h : TokenLaw s) (unit : s.tokens.state = .advancing) (none : s.advances = 0)
    (loaded : s.loading = false) : TokenStep s (s.setPendingAdvance true) := by
  obtain ⟨running, -, items⟩ := State.advances_eq_zero.1 none
  refine ⟨⟨h.load.keep_loaded loaded rfl id le_rfl, ?_, fun other => absurd unit other, h.serial, h.ready,
    h.epoch, h.steps, h.counted, h.below, h.distinct⟩, .of_keeps rfl (State.keepsTokens_of_leases rfl)⟩
  rw [State.advances_eq]
  change s.store.controller.advancing + 1 + s.items.countP WorkItem.isAdvance ≤ 1
  omega

theorem requestAdvance (h : TokenLaw s) (unit : s.tokens.state = .advancing) (none : s.advances = 0)
    (loaded : s.loading = false) : TokenStep s s.requestAdvance := by
  unfold State.requestAdvance
  split
  · exact h.startAdvance unit none loaded
  · exact h.holdAdvance unit none loaded
  · exact h.holdAdvance unit none loaded
  · exact ⟨h, .refl s⟩
  · exact ⟨h, .refl s⟩

/-- A demand is made from UNARMED alone, with no advance asked (R86). -/
theorem demandToken (h : TokenLaw s) (waits : s.loading = true → s.creation ≠ []) :
    TokenStep s s.demandToken := by
  have loaded : s.loading = false := by
    by_contra loading
    have loading : s.loading = true := by simpa using loading
    exact waits loading (h.load.calm loading).1
  unfold State.demandToken
  split
  case isFalse => exact ⟨h, .refl s⟩
  case isTrue unarmed =>
    have none : s.advances = 0 := h.asked (by simp [unarmed])
    have bound : TokenUnit.bound { s.tokens with state := .advancing } = s.tokens.bound := by
      have after : ({ s.tokens with state := .advancing } : TokenUnit).state ≠ .ready := nofun
      rw [TokenUnit.bound_of_not_ready after, TokenUnit.bound_of_not_ready (by simp [unarmed])]
    have asks : TokenStep s { s with tokens := { s.tokens with state := .advancing } } := by
      refine ⟨⟨h.load.keep_loaded loaded rfl id le_rfl, h.once, fun other => absurd rfl other,
        fun _ => h.serial (by simp [unarmed]), nofun, h.epoch, h.steps, h.counted,
        fun i x held active => ?_, h.distinct⟩, bound.ge, fun i token held => .inl ⟨i, held⟩⟩
      rw [bound]
      exact h.below i x held active
    exact asks.trans fun law => law.requestAdvance rfl none loaded

/-! #### Moves -/

theorem tableMove (h : TokenLaw s) (move : TableMove s t) : TokenStep s t := by
  cases move with
  | quiet unseen => exact h.step_of_bare unseen.bare
  | removeLease i => exact h.removeLease i
  | removeWait w => exact h.removeWait w
  | shareLease held active =>
    refine h.step_of_same (h.load.of_course (s.course_shareLease _ _)) rfl ?_ rfl rfl rfl
    exact State.keepsTokens_setLease fun y same _ => by
      obtain rfl := Option.some.inj same
      exact ⟨_, held, active, rfl⟩
  | @grant w x i _ _ _ _ ready =>
    have tokens : (s.removeWait w).tokens = s.tokens := (s.removeWait_frame w).1
    exact (h.removeWait w).trans fun law => law.grantLease (tokens ▸ ready) _ _ _ _
  | demand waits => exact h.demandToken waits

theorem tableMoves (h : TokenLaw s) (moves : TableMoves s t) : TokenStep s t := by
  induction moves with
  | refl => exact ⟨h, .refl s⟩
  | tail _ last ih => exact ih.trans fun law => law.tableMove last

theorem retire (h : TokenLaw s) : TokenStep s s.retire :=
  h.step_of_same (h.load.of_course s.course_retire) rfl (State.keepsTokens_of_leases rfl) rfl rfl rfl

theorem work (h : TokenLaw s) (work : Work s t) : TokenStep s t := by
  have load := h.load.work work
  cases work with
  | quiet unseen => exact h.step_of_bare unseen.bare
  | tables moves => exact (h.tableMoves moves).trans fun law => law.retire
  | grant o _ _ ready => exact h.grantLease ready _ _ _ _
  | createWait =>
    simp only [State.createWait] at load ⊢
    split <;> exact h.step_of_same (by simp_all) rfl (State.keepsTokens_of_leases rfl) rfl rfl rfl
  | demand loaded => exact h.demandToken fun l => absurd (loaded.symm.trans l) Bool.false_ne_true
  | acceptPin client loaded free blank idle =>
    obtain ⟨idle, -⟩ := State.storeFree_iff.1 idle
    refine h.step_of_parts load rfl ?_ ?_ ?_ rfl fun _ => h.counted (by simp [idle])
    · exact State.keepsTokens_setLease fun y same active => by
        rw [← Option.some.inj same] at active
        cases active
    · exact State.advances_le (Nat.zero_le _) rfl le_rfl
    · exact fun n => State.advancingTo_of_idle rfl id
  | acceptUnpin client loaded settled idle =>
    obtain ⟨idle, -⟩ := State.storeFree_iff.1 idle
    refine h.step_of_parts load rfl (s.keepsTokens_setLeaseState _ nofun) ?_ ?_ rfl
      fun _ => h.counted (by simp [idle])
    · exact State.advances_le (Nat.zero_le _) rfl le_rfl
    · exact fun n => State.advancingTo_of_idle rfl id
  | renew d held active =>
    refine h.step_of_same load rfl ?_ rfl rfl rfl
    exact State.keepsTokens_setLease fun y same _ => by
      obtain rfl := Option.some.inj same
      exact ⟨_, held, active, rfl⟩

/-- An item that is no advance's ends (R149). -/
theorem freed (h : TokenLaw s) : TokenStep s s.freed :=
  h.step_of_parts h.load.freed rfl (State.keepsTokens_of_leases rfl) s.advances_freed_le
    (fun _ going => going.imp_right State.mem_items_of_freed) rfl h.counted

/-- The one advance asked is the item in service. -/
theorem serving_advance (h : TokenLaw s) {n : Nat} {r : StepResult}
    (taken : s.servingItem (.advance n r)) : s.tokens.state = .advancing ∧ s.freed.advances = 0 := by
  have once := h.once
  have one : s.advances = s.freed.advances + 1 := by
    rw [State.advances_eq, State.advances_eq, State.items_of_serving taken, List.countP_cons]
    rfl
  refine ⟨?_, by omega⟩
  by_contra other
  have := h.asked other
  omega

/-- The unit after the item of an advance that was done well is READY in a later epoch (R87). -/
theorem arm (h : TokenLaw s) {n : Nat} (taken : s.servingItem (.advance n .good))
    (load : LoadLaw { s with tokens := ⟨.ready, BitVec.ofNat 16 n, 1⟩, inService := none }) :
    TokenStep s { s with tokens := ⟨.ready, BitVec.ofNat 16 n, 1⟩, inService := none } := by
  obtain ⟨unit, none⟩ := h.serving_advance taken
  have going : s.advancingTo n := .inr (State.items_of_serving taken ▸ List.mem_cons_self)
  obtain ⟨above, begun, steps⟩ := h.steps n going
  have epoch : (BitVec.ofNat 16 n).toNat = n := by
    rw [BitVec.toNat_ofNat]
    omega
  have rises : s.tokens.bound ≤ TokenUnit.bound ⟨.ready, BitVec.ofNat 16 n, 1⟩ := by
    rw [TokenUnit.bound_of_not_ready (by simp [unit]), TokenUnit.bound_of_ready rfl, epoch]
    omega
  refine ⟨⟨load, none.le.trans (Nat.zero_le _), fun _ => none, fun other => absurd rfl other, fun _ => ⟨fun zero => ?_, show (1 : BitVec 24) ≠ 0 by decide⟩,
    ?_, fun m later => ?_, h.counted, fun i x held active => ?_, h.distinct⟩, rises, fun i token held => .inl ⟨i, held⟩⟩
  · have := congrArg BitVec.toNat zero
    rw [epoch] at this
    change n = 0 at this
    omega
  · exact epoch.trans_le begun
  · obtain ⟨idle, -, items⟩ := State.advances_eq_zero.1 none
    rcases later with busy | item
    · simp [show s.freed.store.controller = .busyAdvance m from busy, Controller.advancing] at idle
    · exact absurd rfl (List.countP_eq_zero.1 items _ item)
  · obtain ⟨some, below⟩ := h.below i x held active
    exact ⟨some, below.trans_le rises⟩

/-- The unit after the item of an advance that failed is in FAULT (R88). -/
theorem fault (h : TokenLaw s) {n : Nat} (taken : s.servingItem (.advance n .failed))
    (load : LoadLaw { s with tokens := ⟨.fault, s.tokens.epoch, 0⟩, inService := none }) :
    TokenStep s { s with tokens := ⟨.fault, s.tokens.epoch, 0⟩, inService := none } := by
  obtain ⟨unit, none⟩ := h.serving_advance taken
  have same : TokenUnit.bound ⟨.fault, s.tokens.epoch, 0⟩ = s.tokens.bound := by
    have after : (⟨.fault, s.tokens.epoch, 0⟩ : TokenUnit).state ≠ .ready := nofun
    rw [TokenUnit.bound_of_not_ready after, TokenUnit.bound_of_not_ready (by simp [unit])]
  refine ⟨⟨load, none.le.trans (Nat.zero_le _), fun _ => none, fun _ => rfl, nofun, h.epoch,
    fun m later => h.steps m (later.imp_right State.mem_items_of_freed), h.counted,
    fun i x held active => ?_, h.distinct⟩, same.ge, fun i token held => .inl ⟨i, held⟩⟩
  rw [same]
  exact h.below i x held active

/-- The unit after the load is as reset left it, or EXHAUSTED with every step begun (R85). -/
theorem serveLoad (h : TokenLaw s) {begun : Nat} {active : List (PinSlot × PinData)}
    (taken : s.servingItem (.load begun active))
    (law : LoadLaw { active.foldl State.loadPin s with
      tokens := s.tokens.afterLoad begun, loading := false, inService := none }) :
    TokenStep s { active.foldl State.loadPin s with
      tokens := s.tokens.afterLoad begun, loading := false, inService := none } := by
  have loading : s.loading = true := h.load.waiting (by
    rw [State.loads, State.items_of_serving taken, List.countP_cons_of_pos rfl]
    omega)
  obtain ⟨-, unit, noAdvance⟩ := h.load.calm loading
  have after : (s.tokens.afterLoad begun).state ≠ .ready ∧ (s.tokens.afterLoad begun).serial = 0
      ∧ (s.tokens.afterLoad begun).epoch = s.tokens.epoch := by
    rw [unit]
    unfold TokenUnit.afterLoad
    split <;> exact ⟨nofun, rfl, rfl⟩
  obtain ⟨notReady, serial, epoch⟩ := after
  have same : (s.tokens.afterLoad begun).bound = s.tokens.bound := by
    rw [TokenUnit.bound_of_not_ready notReady, TokenUnit.bound_of_not_ready (by simp [unit, TokenUnit.reset]),
      epoch]
  have kept : s.keepsTokens { active.foldl State.loadPin s with
      tokens := s.tokens.afterLoad begun, loading := false, inService := none } := by
    rintro i token ⟨x, held, isActive, rfl⟩
    rcases State.lease_loadPins (active := active) held with old | pinned
    · exact ⟨x, old, isActive, rfl⟩
    · simp [pinned] at isActive
  have freed : s.freed.advances = 0 := by
    have := s.advances_freed_le
    omega
  refine ⟨?_, same.ge, fun i token held => .inl ⟨i, kept i token held⟩⟩
  rw [State.foldl_loadPin_eq] at law kept ⊢
  refine ⟨law, freed.le.trans (Nat.zero_le _), fun _ => freed, fun _ => serial,
    fun ready => absurd ready notReady, (congrArg BitVec.toNat epoch).trans_le h.epoch,
    fun n going => ?_, h.counted, fun i x held isActive => ?_, fun i j x y hx hy ax ay tokens => ?_⟩
  · obtain ⟨above, rest⟩ := h.steps n (going.imp_right State.mem_items_of_freed)
    exact ⟨(congrArg BitVec.toNat epoch).trans_lt above, rest⟩
  · change _ ∧ _ < (s.tokens.afterLoad begun).bound
    rw [same]
    exact h.carried_below (kept i x.token ⟨x, held, isActive, rfl⟩)
  · exact h.carried_once (kept i x.token ⟨x, hx, ax, rfl⟩) (kept j x.token ⟨y, hy, ay, tokens.symm⟩)

/-- The reading of the cells sets the begun count (R111, R112). -/
theorem startUpLoad (h : TokenLaw s) (reading : s.store.controller = .loading)
    (load : LoadLaw ({ s with store := s.store.loaded s.cells }.appendItem
        (.load s.cells.begunCount s.cells.activeSlots))) :
    TokenStep s ({ s with store := s.store.loaded s.cells }.appendItem
        (.load s.cells.begunCount s.cells.activeSlots)) := by
  obtain ⟨loading, -⟩ := h.load.reading reading
  obtain ⟨-, unit, none⟩ := h.load.calm loading
  obtain ⟨-, pending, items⟩ := State.advances_eq_zero.1 none
  have noAdvance : ({ s with store := s.store.loaded s.cells }.appendItem
      (.load s.cells.begunCount s.cells.activeSlots)).advances = 0 := by
    rw [State.advances_appendItem, State.advances_eq]
    change 0 + (if s.store.pendingAdvance then 1 else 0) + s.items.countP WorkItem.isAdvance + 0 = 0
    rw [pending, items]
    rfl
  refine ⟨⟨load, noAdvance.le.trans (Nat.zero_le _), fun _ => noAdvance, h.serial, h.ready, ?_,
    fun n going => ?_, fun _ => rfl, h.below, h.distinct⟩,
    .of_keeps rfl (State.keepsTokens_of_leases rfl)⟩
  · change s.tokens.epoch.toNat ≤ _
    rw [unit]
    exact Nat.zero_le _
  · obtain ⟨idle, -, left⟩ := State.advances_eq_zero.1 noAdvance
    rcases going with busy | item
    · cases busy
    · exact absurd rfl (List.countP_eq_zero.1 left _ item)

/-- An advance that ends leaves its item (R107). -/
theorem endAdvance (h : TokenLaw s) {n : Nat} (busy : s.store.controller = .busyAdvance n)
    (beginStep doneStep : StepResult)
    (load : LoadLaw ((s.setEpochMarks n (advanceMarks beginStep doneStep)).completes
        (.advance n (bothSteps beginStep doneStep)))) :
    TokenStep s ((s.setEpochMarks n (advanceMarks beginStep doneStep)).completes
        (.advance n (bothSteps beginStep doneStep))) := by
  obtain ⟨-, below, -⟩ := h.steps n (.inl busy)
  have mark : (advanceMarks beginStep doneStep).beginMark ≠ .blank := by
    cases beginStep <;> nofun
  have counted := h.counted (by simp [busy])
  refine h.step_of_parts load rfl (State.keepsTokens_of_leases rfl) ?_ (fun m going => ?_) rfl fun _ => ?_
  · rw [State.advances_eq, State.advances_eq, State.items_completes, List.countP_append, busy]
    change 0 + (if s.store.pendingAdvance then 1 else 0) + (s.items.countP WorkItem.isAdvance + 1)
      ≤ 1 + (if s.store.pendingAdvance then 1 else 0) + s.items.countP WorkItem.isAdvance
    omega
  · rcases going with idle | item
    · cases idle
    · rw [State.items_completes, List.mem_append, List.mem_singleton] at item
      rcases item with old | new
      · exact .inr old
      · obtain ⟨rfl, -⟩ := WorkItem.advance.inj new
        exact .inl busy
  · refine Eq.trans ?_ (s.begunCount_setEpochMarks n mark).symm
    rw [← counted]
    exact (max_eq_left below).symm

/-- A pin operation that ends is no advance. -/
theorem endPinOp (h : TokenLaw s) {item : WorkItem} (other : item.isAdvance = false)
    (read : s.store.controller ≠ .loading) (load : LoadLaw (s.completes item)) :
    TokenStep s (s.completes item) := by
  refine h.step_of_parts load rfl (State.keepsTokens_of_leases rfl) (s.advances_completes_le other)
    (fun n => State.advancingTo_of_idle rfl fun mem => ?_) rfl fun _ => h.counted read
  rw [State.items_completes, List.mem_append, List.mem_singleton] at mem
  rcases mem with old | rfl
  · exact old
  · cases other

/-- Law 4 of a state with another queue of commands, or other pin cells and slot entries. -/
theorem setSlot (h : TokenLaw s) (k : PinSlot) (x : PinCells) (y : SlotEntry) :
    TokenStep s ((s.setPinCells k x).setSlotEntry k y) :=
  h.step_of_parts (h.load.of_course rfl) rfl (State.keepsTokens_of_leases rfl) le_rfl (fun _ => id) rfl
    h.counted

theorem gainClockItems (h : TokenLaw s) (gains : s.gainsClockItems t) (load : LoadLaw t)
    (tokens : t.tokens = s.tokens) (leases : t.leases = s.leases) (store : t.store = s.store)
    (cells : t.cells = s.cells) : TokenStep s t := by
  refine h.step_of_parts load tokens (State.keepsTokens_of_leases leases) ?_ (fun n going => ?_)
    (by rw [store]) fun read => ?_
  · exact State.advances_le (by rw [store]) (by rw [store])
      (gains.countP fun n g => by cases n <;> rfl).le
  · rw [State.advancingTo, store] at going
    exact going.imp_right (gains.mem fun n g => by cases n <;> nofun)
  · rw [store] at read ⊢
    rw [cells]
    exact h.counted read

/-- The advance held pending is the one asked, so that none is once its flag is cleared (R104). -/
theorem clearPending (h : TokenLaw s) (idle : s.store.controller = .idle)
    (pending : s.store.pendingAdvance = true) (loaded : s.loading = false) :
    TokenStep s ((s.setController .idle).setPendingAdvance false)
      ∧ ((s.setController .idle).setPendingAdvance false).advances = 0
      ∧ s.tokens.state = .advancing := by
  have once := h.once
  have counts := s.advances_eq
  rw [idle, pending] at counts
  have items : s.items.countP WorkItem.isAdvance = 0 := by
    simp only [Controller.advancing, if_true] at counts
    omega
  have none : ((s.setController .idle).setPendingAdvance false).advances = 0 :=
    State.advances_eq_zero.2 ⟨rfl, rfl, items⟩
  refine ⟨h.step_of_parts (h.load.keep_loaded loaded rfl nofun le_rfl) rfl
    (State.keepsTokens_of_leases rfl) (none.le.trans (Nat.zero_le _))
    (fun n => State.advancingTo_of_idle rfl id) rfl fun _ => h.counted (by simp [idle]), none, ?_⟩
  by_contra other
  have := h.asked other
  simp only [Controller.advancing, if_true] at counts
  omega

theorem move (h : TokenLaw s) (move : Move s t) : TokenStep s t := by
  have load := h.load.move move
  cases move with
  | unseen same => exact h.step_of_bare same
  | work w => exact h.work w
  | tick =>
    have gains := s.gainsClockItems_tick
    rw [State.tickClock_frame] at load gains ⊢
    exact h.gainClockItems gains load rfl rfl rfl rfl
  | runOut n =>
    have gains := s.gainsClockItems_appendIfRunOut n
    rw [State.appendIfRunOut_eq] at load gains ⊢
    exact h.gainClockItems gains load rfl rfl rfl rfl
  | @clockItem n g =>
    have cleared : LoadLaw (s.clearMark n) := h.load.of_course (s.course_clearMark n)
    have gains := s.gainsClockItems_clearMark n
    have law : TokenStep s (s.clearMark n) := by
      rw [State.clearMark_eq] at cleared gains ⊢
      exact h.gainClockItems gains cleared rfl rfl rfl rfl
    exact law.trans fun law => law.freed
  | load taken => exact h.serveLoad taken load
  | arm taken => exact h.arm taken load
  | fault taken => exact h.fault taken load
  | lostPinWrite | lostPinVoid => exact h.freed
  | @settlePin k e =>
    have settled : TokenStep s (s.settlePin e) :=
      h.step_of_same (h.load.of_course rfl) rfl (s.keepsTokens_setLeaseState _ nofun) rfl rfl rfl
    exact settled.trans fun law => law.freed
  | @keepPin k e =>
    have kept : TokenStep s (s.keepPin e) :=
      h.step_of_same (h.load.of_course rfl) rfl (s.keepsTokens_setLeaseState _ nofun) rfl rfl rfl
    exact kept.trans fun law => law.freed
  | @giveUpPin _ k e _ _ moves =>
    have given : TokenStep s (s.giveUpPin e) := (h.removeLease e.leaseSlot).trans fun law =>
      law.step_of_same (law.load.of_course rfl) rfl (State.keepsTokens_of_leases rfl) rfl rfl rfl
    exact ((given.trans fun law => law.freed).trans fun law => law.tableMoves moves).trans
      fun law => law.retire
  | startUpLoad reading => exact h.startUpLoad reading load
  | endAdvance busy => exact h.endAdvance busy _ _ load
  | @endPinWrite k busy dataStep validStep x =>
    have read : s.store.controller ≠ .loading := by simp [busy]
    exact (h.setSlot k x _).trans fun law => law.endPinOp rfl read load
  | @endPinVoid k busy voidStep x =>
    have read : s.store.controller ≠ .loading := by simp [busy]
    exact (h.setSlot k x _).trans fun law => law.endPinOp rfl read load
  | startPending idle pending =>
    have loaded := h.load.loaded_of_advance (LoadLaw.advances_pos_of_pending pending)
    obtain ⟨law, none, unit⟩ := h.clearPending idle pending loaded
    rw [State.endOperation, if_pos pending]
    exact law.trans fun law => law.startAdvance unit none loaded

/-- After a reset no token has been issued and no advance asked. -/
theorem reset {cells : Cells} {unstated : Nat} {pending : List Instr} :
    TokenLaw { State.reset with cells := cells, unstated := unstated, pending := pending } where
  load := LoadLaw.reset
  once := Nat.zero_le _
  asked _ := rfl
  serial _ := rfl
  ready := nofun
  epoch := Nat.zero_le _
  steps n going := by simp [State.advancingTo, State.reset, State.items, Store.reset] at going
  counted read := absurd rfl read
  below i x held := by simp [State.lease, State.reset] at held
  distinct i j x y held := by simp [State.lease, State.reset] at held

theorem moves (h : TokenLaw s) (moves : Moves s t) : TokenStep s t := by
  induction moves with
  | refl => exact ⟨h, .refl s⟩
  | tail _ last ih => exact ih.trans fun law => law.move last

end TokenLaw

/-- Settles O54: a reset begins a power cycle anew, and along the moves of every other command tokens rise. -/
theorem everyStepKeepsTheTokenLaw : Obligations.EveryStepKeepsTheTokenLaw := by
  intro s t h stepped
  unfold step at stepped
  cases queue : s.pending with
  | nil =>
    rw [queue] at stepped
    obtain rfl := Host.Outcome.next.inj stepped
    exact ⟨h, fun _ => ⟨le_rfl, fun i x held active fresh => absurd rfl (fresh i x held active)⟩⟩
  | cons c rest =>
    have ready : TokenStep s { s with pending := rest } :=
      h.step_of_same (h.load.of_course rfl) rfl (State.keepsTokens_of_leases rfl) rfl rfl rfl
    obtain ⟨u, answer, outcome⟩ := exec_answers c { s with pending := rest }
    rw [queue] at stepped
    obtain rfl := Host.Outcome.next.inj (answer.symm.trans stepped)
    rcases outcome with ⟨tear, rfl, rfl⟩ | moves
    · exact ⟨TokenLaw.reset, fun noReset => absurd rfl (noReset tear rest)⟩
    · obtain ⟨law, bound, fresh⟩ := ready.trans fun law => law.moves moves
      refine ⟨law, fun _ => ⟨bound, fun i x held active new => ?_⟩⟩
      refine (fresh i x.token ⟨x, held, active, rfl⟩).resolve_left ?_
      rintro ⟨j, y, heldY, activeY, same⟩
      exact new j y heldY activeY same

end
end Sys2Proof.Machine
end

section
/-! PROOFS. Law 1 (R6) with the bookkeeping of the pins (R9, R116, R125), move by move. -/

namespace Sys2Proof.Machine

section
variable {s t u : State}

/-! ### Pin states and pin operations -/

theorem PinState.slot?_eq_none {pin : PinState} : pin.slot? = none ↔ pin = .unpinned := by
  cases pin <;> simp [PinState.slot?]

theorem PinOp.phase_slot? (e : PinOp) : e.phase.slot? = some e.slot := by
  unfold PinOp.phase
  cases e.kind <;> rfl

theorem PinOp.phase_ne_unpinned (e : PinOp) : e.phase ≠ .unpinned := by
  unfold PinOp.phase
  cases e.kind <;> nofun

theorem PinOp.phase_ne_pinned (e : PinOp) (k : PinSlot) : e.phase ≠ .pinned k := by
  unfold PinOp.phase
  cases e.kind <;> nofun

/-- Entries that name their slots apart: the one of a slot goes, and the others stay (R116). -/
theorem PinOp.mem_eraseP {ops : List PinOp} (apart : (ops.map PinOp.slot).Nodup) {k : PinSlot}
    {f : PinOp} : (f ∈ ops.eraseP fun g => g.slot == k) ↔ f ∈ ops ∧ f.slot ≠ k := by
  induction ops with
  | nil => simp
  | cons g rest ih =>
    obtain ⟨first, later⟩ := List.nodup_cons.1 apart
    by_cases same : g.slot = k
    · have behind (mem : f ∈ rest) : f.slot ≠ k := fun slot =>
        first (same.trans slot.symm ▸ List.mem_map_of_mem mem)
      rw [List.eraseP_cons_of_pos (by simpa using same), List.mem_cons]
      exact ⟨fun mem => ⟨.inr mem, behind mem⟩,
        fun ⟨mem, other⟩ => mem.resolve_left fun here => other (here ▸ same)⟩
    · rw [List.eraseP_cons_of_neg (by simpa using same), List.mem_cons, List.mem_cons, ih later]
      constructor
      · rintro (rfl | ⟨mem, other⟩)
        · exact ⟨.inl rfl, same⟩
        · exact ⟨.inr mem, other⟩
      · rintro ⟨rfl | mem, other⟩
        · exact .inl rfl
        · exact .inr ⟨mem, other⟩

/-- A record with a pin state is a record. -/
theorem State.view_ne_fresh {tag : Tag} (pinned : (s.view tag).pin ≠ .unpinned) :
    s.view tag ≠ .fresh tag := fun fresh => pinned (by rw [fresh]; rfl)

theorem State.view_mem_of_pinned {tag : Tag} (pinned : (s.view tag).pin ≠ .unpinned) :
    s.view tag ∈ s.directory := State.view_mem (State.view_ne_fresh pinned)

/-- A change of one record that stands. -/
theorem State.view_onTag {a : Tag} {f : Record → Record} (keeps : ∀ r, (f r).tag = r.tag)
    (record : (s.view a).pin ≠ .unpinned) (d : t.directory = onTags [a] f s.directory) (tag : Tag) :
    t.view tag = if tag = a then f (s.view tag) else s.view tag := by
  unfold State.view State.record? at *
  rw [d, find_onTags keeps]
  cases found : s.directory.find? fun r => r.tag == tag with
  | some r => simp
  | none =>
    have other : tag ≠ a := by
      rintro rfl
      exact record (by rw [found]; rfl)
    simp [other]

/-! ### Removals -/

theorem State.removeLease_frame (s : State) (i : LeaseSlot) :
    s.removeLease i = { s with
      directory := (s.removeLease i).directory
      leaseClock := (s.removeLease i).leaseClock
      leases := (s.removeLease i).leases } := by
  rw [State.removeLease_eq]
  cases s.lease i <;> rfl

theorem State.removeWait_fields (s : State) (w : WaitSlot) :
    s.removeWait w = { s with
      directory := (s.removeWait w).directory
      waitClock := (s.removeWait w).waitClock
      creation := (s.removeWait w).creation
      waits := (s.removeWait w).waits } := by
  rw [State.removeWait_eq]
  cases s.wait w <;> rfl

theorem State.sorted_removeLease (sorted : s.sorted) (i : LeaseSlot) : (s.removeLease i).sorted := by
  rw [State.removeLease_eq]
  cases s.lease i with
  | none => exact sorted
  | some x => exact State.sorted_onTags (f := Record.dropHolder i) (fun _ => rfl) sorted rfl

theorem State.sorted_removeWait (sorted : s.sorted) (w : WaitSlot) : (s.removeWait w).sorted := by
  rw [State.removeWait_eq]
  cases s.wait w with
  | none => exact sorted
  | some x => exact State.sorted_onTags (f := Record.dropWaiter w) (fun _ => rfl) sorted rfl

/-- The removal of a lease leaves all of a tag but some of its holders (R34). -/
theorem State.view_removeLease (s : State) (i : LeaseSlot) (tag : Tag) : ∃ p,
    (s.removeLease i).view tag = { s.view tag with holders := (s.view tag).holders.filter p } := by
  have same : s.view tag = { s.view tag with holders := (s.view tag).holders.filter fun _ => true } := by
    simp
  rw [State.removeLease_eq]
  cases s.lease i with
  | none => exact ⟨_, same⟩
  | some x =>
    dsimp only
    rw [State.view_onTags (s := s) (f := Record.dropHolder i) (fun _ => rfl) (fun _ => rfl) rfl tag]
    split
    · exact ⟨_, rfl⟩
    · exact ⟨_, same⟩

/-- The removal of a wait leaves all of a tag but some of its queue (R59). -/
theorem State.view_removeWait (s : State) (w : WaitSlot) (tag : Tag) : ∃ p,
    (s.removeWait w).view tag = { s.view tag with queue := (s.view tag).queue.filter p } := by
  have same : s.view tag = { s.view tag with queue := (s.view tag).queue.filter fun _ => true } := by
    simp
  rw [State.removeWait_eq]
  cases s.wait w with
  | none => exact ⟨_, same⟩
  | some x =>
    dsimp only
    rw [State.view_onTags (s := s) (f := Record.dropWaiter w) (fun _ => rfl) (fun _ => rfl) rfl tag]
    split
    · exact ⟨_, rfl⟩
    · exact ⟨_, same⟩

theorem State.removeLease_of_no_record (none : s.directory = []) (i : LeaseSlot) :
    (s.removeLease i).directory = [] := by
  rw [State.removeLease_eq]
  cases s.lease i <;> simp [none, onTags]

theorem State.removeWait_of_no_record (none : s.directory = []) (w : WaitSlot) :
    (s.removeWait w).directory = [] := by
  rw [State.removeWait_eq]
  cases s.wait w <;> simp [none, onTags]

/-! ### What runs for a slot -/

theorem State.writesOf_le {k : PinSlot}
    (controller : t.store.controller = .busyPinWrite k → s.store.controller = .busyPinWrite k)
    (items : t.items.countP (WorkItem.writes k) ≤ s.items.countP (WorkItem.writes k)) :
    t.writesOf k ≤ s.writesOf k := by
  unfold State.writesOf
  split
  case isTrue busy =>
    rw [if_pos (controller busy)]
    omega
  case isFalse => exact (Nat.zero_add _).trans_le (items.trans (Nat.le_add_left _ _))

theorem State.voidsOf_le {k : PinSlot}
    (controller : t.store.controller = .busyPinVoid k → s.store.controller = .busyPinVoid k)
    (items : t.items.countP (WorkItem.voids k) ≤ s.items.countP (WorkItem.voids k)) :
    t.voidsOf k ≤ s.voidsOf k := by
  unfold State.voidsOf
  split
  case isTrue busy =>
    rw [if_pos (controller busy)]
    omega
  case isFalse => exact (Nat.zero_add _).trans_le (items.trans (Nat.le_add_left _ _))

/-- No more pin operations run or wait with their item, for any slot. -/
def State.runsNoMore (s t : State) : Prop :=
  ∀ k, t.writesOf k ≤ s.writesOf k ∧ t.voidsOf k ≤ s.voidsOf k

theorem State.runsNoMore_of_same (controller : t.store.controller = s.store.controller)
    (items : t.items = s.items) : s.runsNoMore t := fun k =>
  ⟨State.writesOf_le (controller ▸ id) (by rw [items]), State.voidsOf_le (controller ▸ id) (by rw [items])⟩

theorem State.runsNoMore_freed (s : State) : s.runsNoMore s.freed := fun _ =>
  ⟨State.writesOf_le id (s.countP_freed_le _), State.voidsOf_le id (s.countP_freed_le _)⟩

/-- Items that are no pin operation's join the list, and none starts. -/
theorem State.runsNoMore_append {item : WorkItem}
    (controller : ∀ j, (t.store.controller = .busyPinWrite j → s.store.controller = .busyPinWrite j)
      ∧ (t.store.controller = .busyPinVoid j → s.store.controller = .busyPinVoid j))
    (items : t.items = s.items ++ [item])
    (other : ∀ k, item.writes k = false ∧ item.voids k = false) : s.runsNoMore t := by
  intro k
  obtain ⟨write, void⟩ := controller k
  obtain ⟨noWrite, noVoid⟩ := other k
  refine ⟨State.writesOf_le write ?_, State.voidsOf_le void ?_⟩
  · rw [items, List.countP_append, List.countP_singleton, noWrite]
    exact le_rfl
  · rw [items, List.countP_append, List.countP_singleton, noVoid]
    exact le_rfl

theorem State.runsNoMore_of_gains (gains : s.gainsClockItems t)
    (controller : t.store.controller = s.store.controller) : s.runsNoMore t := fun k =>
  ⟨State.writesOf_le (controller ▸ id) (gains.countP fun n g => by cases n <;> rfl).le,
    State.voidsOf_le (controller ▸ id) (gains.countP fun n g => by cases n <;> rfl).le⟩

/-- A pin operation begins for a slot, and nothing else runs anew. -/
theorem State.runs_of_begin {e : PinOp} (controller : t.store.controller
      = match e.kind with | .write => .busyPinWrite e.slot | .void => .busyPinVoid e.slot)
    (items : t.items = s.items) (k : PinSlot) :
    (t.writesOf k ≤ s.writesOf k + if e.kind = .write ∧ e.slot = k then 1 else 0)
      ∧ (t.voidsOf k ≤ s.voidsOf k + if e.kind = .void ∧ e.slot = k then 1 else 0) := by
  simp only [State.writesOf, State.voidsOf, controller, items]
  cases e.kind with
  | write =>
    simp only [Controller.busyPinWrite.injEq, reduceCtorEq, true_and, false_and, if_false]
    omega
  | void =>
    simp only [Controller.busyPinVoid.injEq, reduceCtorEq, true_and, false_and, if_false]
    omega

/-- A pin operation that ends runs on as its item (R104, R108, R109). -/
theorem State.runsNoMore_of_end {e : PinOpKind} {k : PinSlot} {r : StepResult}
    (busy : s.store.controller = match e with | .write => .busyPinWrite k | .void => .busyPinVoid k)
    (idle : t.store.controller = .idle)
    (items : t.items = s.items ++ [match e with | .write => .pinWrite k r | .void => .pinVoid k r]) :
    s.runsNoMore t := by
  intro j
  simp only [State.writesOf, State.voidsOf, busy, idle, items, List.countP_append, List.countP_singleton]
  cases e <;> by_cases same : k = j <;> simp [WorkItem.writes, WorkItem.voids, same]

/-- The item in service is one of the runs of its slot. -/
theorem State.writesOf_serving {item : WorkItem} (taken : s.servingItem item) (k : PinSlot) :
    s.writesOf k = s.freed.writesOf k + if item.writes k then 1 else 0 := by
  rw [State.writesOf, State.items_of_serving taken, List.countP_cons, ← Nat.add_assoc]
  rfl

theorem State.voidsOf_serving {item : WorkItem} (taken : s.servingItem item) (k : PinSlot) :
    s.voidsOf k = s.freed.voidsOf k + if item.voids k then 1 else 0 := by
  rw [State.voidsOf, State.items_of_serving taken, List.countP_cons, ← Nat.add_assoc]
  rfl

/-- No load's item is new. -/
def State.loadsNoMore (s t : State) : Prop :=
  ∀ begun active, WorkItem.load begun active ∈ t.items → WorkItem.load begun active ∈ s.items

theorem State.loadsNoMore_of_same (items : t.items = s.items) : s.loadsNoMore t :=
  fun _ _ mem => items ▸ mem

theorem State.loadsNoMore_append {item : WorkItem} (items : t.items = s.items ++ [item])
    (other : item.isLoad = false) : s.loadsNoMore t := by
  intro begun active mem
  rw [items, List.mem_append, List.mem_singleton] at mem
  rcases mem with old | rfl
  · exact old
  · cases other

/-- A settled pin is the record that names its slot (R121). -/
theorem State.record_of_settledPin? {k : PinSlot} {r : Record} {i : LeaseSlot}
    (settled : s.settledPin? k = some (r, i)) :
    s.store.slots[k].state = .active ∧ r ∈ s.directory ∧ r.pin = .pinned k := by
  unfold State.settledPin? at settled
  split at settled
  case isFalse => cases settled
  case isTrue active =>
    obtain ⟨q, found, holder⟩ := Option.bind_eq_some_iff.1 settled
    obtain ⟨x, -, same⟩ := Option.map_eq_some_iff.1 holder
    obtain ⟨rfl, -⟩ := Prod.mk.inj same
    exact ⟨active, List.mem_of_find?_eq_some found, by simpa using List.find?_some found⟩

/-! ### The ACTIVE slots of the cells (R111, R112) -/

theorem Cells.mem_activeSlots {c : Cells} {p : PinSlot × PinData} :
    p ∈ c.activeSlots ↔ c.active? p.1 = some p.2 := by
  simp only [Cells.activeSlots, List.mem_filterMap, List.mem_finRange, true_and,
    Option.map_eq_some_iff]
  constructor
  · rintro ⟨i, d, active, rfl⟩
    exact active
  · exact fun active => ⟨p.1, p.2, active, rfl⟩

/-- The ACTIVE slots stand in slot order, and no two have one tag. -/
theorem Cells.activeSlots_pairwise (c : Cells) :
    c.activeSlots.Pairwise fun p q => p.1 < q.1 ∧ p.2.tag ≠ q.2.tag := by
  refine List.pairwise_filterMap.2 ((List.pairwise_lt_finRange 24).imp ?_)
  rintro i j below p one q other
  obtain ⟨d, active, rfl⟩ := Option.map_eq_some_iff.1 one
  obtain ⟨e, later, rfl⟩ := Option.map_eq_some_iff.1 other
  exact ⟨below, (Cells.active?_eq_some_iff.1 later).2 i d below (Cells.active?_eq_some_iff.1 active).1⟩

/-- The pins that a load makes on tags without a record stand alone on their tags (R114). -/
theorem State.view_loadPins {active : List (PinSlot × PinData)} (sorted : s.sorted)
    (distinct : (active.map fun p => p.2.tag).Nodup)
    (fresh : ∀ p ∈ active, s.view p.2.tag = .fresh p.2.tag) :
    (active.foldl State.loadPin s).sorted ∧ ∀ tag,
      (active.foldl State.loadPin s).view tag = s.view tag ∨ ∃ p ∈ active, p.2.tag = tag
        ∧ ∃ i, (active.foldl State.loadPin s).view tag = ⟨tag, [⟨i, .exclusive⟩], [], 0, .pinned p.1⟩ := by
  induction active generalizing s with
  | nil => exact ⟨sorted, fun _ => .inl rfl⟩
  | cons p rest ih =>
    obtain ⟨first, later⟩ := List.nodup_cons.1 distinct
    have made : (s.loadPin p).sorted ∧ ∀ tag, (s.loadPin p).view tag = s.view tag ∨ tag = p.2.tag
        ∧ ∃ i, (s.loadPin p).view tag = ⟨tag, [⟨i, .exclusive⟩], [], 0, .pinned p.1⟩ := by
      cases free : s.freeLease? with
      | none =>
        have same : s.loadPin p = s := by rw [State.loadPin, free]
        rw [same]
        exact ⟨sorted, fun _ => .inl rfl⟩
      | some i =>
        have keeps (r : Record) : ({ r with
            holders := r.holders ++ [⟨i, .exclusive⟩], pin := .pinned p.1 } : Record).tag = r.tag := rfl
        have directory := congrArg State.directory (State.loadPin_of_free free p)
        refine ⟨State.sorted_alterRecord keeps sorted directory, fun tag => ?_⟩
        rw [State.view_alterRecord keeps sorted directory]
        split
        case isTrue same =>
          subst same
          exact .inr ⟨rfl, i, by rw [fresh p List.mem_cons_self]; rfl⟩
        case isFalse => exact .inl rfl
    obtain ⟨sorted', view⟩ := made
    have still (q) (mem : q ∈ rest) : (s.loadPin p).view q.2.tag = .fresh q.2.tag := by
      have other : q.2.tag ≠ p.2.tag := fun same => first (List.mem_map.2 ⟨q, mem, same⟩)
      exact ((view q.2.tag).resolve_right fun mine => other mine.1).trans
        (fresh q (List.mem_cons_of_mem p mem))
    obtain ⟨sortedAll, all⟩ := ih sorted' later still
    refine ⟨sortedAll, fun tag => ?_⟩
    rcases all tag with same | ⟨q, mem, tagOf, made⟩
    · rcases view tag with old | ⟨rfl, i, new⟩
      · exact .inl (same.trans old)
      · exact .inr ⟨p, List.mem_cons_self, rfl, i, same.trans new⟩
    · exact .inr ⟨q, List.mem_cons_of_mem p mem, tagOf, made⟩

/-! ### The law, as every tag reads it -/

namespace HolderLaw

theorem named_view (h : HolderLaw s) {a b : Tag} (pinned : (s.view a).pin ≠ .unpinned)
    (same : (s.view a).pin.slot? = (s.view b).pin.slot?) : a = b := by
  have other : (s.view b).pin ≠ .unpinned := fun none =>
    pinned (PinState.slot?_eq_none.1 (same.trans (PinState.slot?_eq_none.2 none)))
  have record := h.named _ (State.view_mem_of_pinned pinned) _ (State.view_mem_of_pinned other) pinned same
  simpa only [State.view_tag] using congrArg Record.tag record

theorem spent_view (h : HolderLaw s) {a : Tag} {k : PinSlot} (slot : (s.view a).pin.slot? = some k) :
    s.store.slots[k].state ≠ .blank := by
  have pinned : (s.view a).pin ≠ .unpinned := fun none => by
    rw [none] at slot
    cases slot
  exact h.spent _ (State.view_mem_of_pinned pinned) k slot

theorem queues_view (h : HolderLaw s) {a : Tag} (pinned : (s.view a).pin ≠ .unpinned) :
    (s.view a).queue = [] := h.queues _ (State.view_mem_of_pinned pinned) pinned

theorem settling_view (h : HolderLaw s) {a : Tag} (settling : (s.view a).pin.settling = true) :
    (s.view a).holders = [] := by
  have pinned : (s.view a).pin ≠ .unpinned := fun none => by
    rw [none] at settling
    cases settling
  exact h.settling _ (State.view_mem_of_pinned pinned) settling

theorem exclusive_view (h : HolderLaw s) {a : Tag} {x : Holder} (holds : x ∈ (s.view a).holders)
    (exclusive : x.mode = .exclusive) : (s.view a).holders = [x] :=
  (State.forall_record_iff h.sorted
    (P := fun r => ∀ x ∈ r.holders, x.mode = .exclusive → r.holders = [x])
    fun _ _ mem => absurd mem List.not_mem_nil).1 h.exclusive a x holds exclusive

theorem phase_view (h : HolderLaw s) {e : PinOp} (mem : e ∈ s.pinOps) :
    (s.view e.tag).pin = e.phase := by
  obtain ⟨r, listed, tag, phase⟩ := h.phases e mem
  rw [← tag, State.view_of_mem h.sorted listed, phase]

/-- No two operations in flight name one slot (R116). -/
theorem op_of_slot (h : HolderLaw s) {e f : PinOp} (one : e ∈ s.pinOps) (other : f ∈ s.pinOps)
    (slot : e.slot = f.slot) : e = f := List.inj_on_of_nodup_map h.apart one other slot

theorem not_loading (h : HolderLaw s) {e : PinOp} (mem : e ∈ s.pinOps) : s.loading = false := by
  by_contra loading
  obtain ⟨-, none, -⟩ := h.empty (by simpa using loading)
  rw [none] at mem
  cases mem

theorem not_loading_of_running (h : HolderLaw s) {k : PinSlot} (runs : 0 < s.writesOf k + s.voidsOf k) :
    s.loading = false := by
  by_contra loading
  obtain ⟨-, -, none⟩ := h.empty (by simpa using loading)
  have := none k
  omega

/-- The law of a state that keeps the pin states, the operations in flight and the slot table. -/
theorem of_pins (h : HolderLaw s) (load : LoadLaw t) (loading : t.loading = s.loading)
    (sorted : t.sorted) (empty : s.loading = true → s.directory = [] → t.directory = []) (pinOps : t.pinOps = s.pinOps)
    (runs : s.runsNoMore t) (loads : s.loadsNoMore t) (slots : t.store.slots = s.store.slots)
    (pins : ∀ tag, (t.view tag).pin = (s.view tag).pin)
    (queues : ∀ tag, (s.view tag).pin ≠ .unpinned → (t.view tag).queue = [])
    (settling : ∀ tag, (s.view tag).pin.settling = true → (t.view tag).holders = [])
    (exclusive : ∀ tag, ∀ x ∈ (t.view tag).holders, x.mode = .exclusive → (t.view tag).holders = [x])
    (sets : ∀ w x, t.wait w = some x → (tagsOf x.set).Nodup) : HolderLaw t where
  load := load
  empty l := by
    obtain ⟨noRecord, noOp, none⟩ := h.empty (loading ▸ l)
    refine ⟨empty (loading ▸ l) noRecord, pinOps.trans noOp, fun k => ?_⟩
    have := none k
    have := runs k
    omega
  loaded begun active mem := by
    obtain ⟨tags, names, activeSlots⟩ := h.loaded begun active (loads begun active mem)
    exact ⟨tags, names, fun p listed => by rw [slots]; exact activeSlots p listed⟩
  sorted := sorted
  phases e mem := by
    rw [pinOps] at mem
    have phase := (pins e.tag).trans (h.phase_view mem)
    have pinned : (t.view e.tag).pin ≠ .unpinned := phase ▸ e.phase_ne_unpinned
    exact ⟨_, State.view_mem_of_pinned pinned, t.view_tag _, phase⟩
  apart := by
    rw [pinOps]
    exact h.apart
  once k := by
    have := h.once k
    have := runs k
    omega
  writes k some := by
    rw [pinOps]
    exact h.writes k (some.trans_le (runs k).1)
  voids k some := by
    rw [pinOps]
    exact h.voids k (some.trans_le (runs k).2)
  named r one q other pinned same := by
    rw [← State.view_of_mem sorted one, pins] at pinned same
    rw [← State.view_of_mem sorted other, pins] at same
    rw [← State.view_of_mem sorted one, ← State.view_of_mem sorted other, h.named_view pinned same]
  spent r mem k slot := by
    rw [← State.view_of_mem sorted mem, pins] at slot
    rw [slots]
    exact h.spent_view slot
  queues r mem pinned := by
    have := queues r.tag
    rw [← pins, State.view_of_mem sorted mem] at this
    exact this pinned
  settling r mem isSettling := by
    have := settling r.tag
    rw [← pins, State.view_of_mem sorted mem] at this
    exact this isSettling
  sets := sets
  exclusive r mem := by
    have := exclusive r.tag
    rwa [State.view_of_mem sorted mem] at this

/-- What leaves the records and the waits. -/
theorem of_same (h : HolderLaw s) (load : LoadLaw t) (loading : t.loading = s.loading)
    (directory : t.directory = s.directory) (waits : t.waits = s.waits)
    (pinOps : t.pinOps = s.pinOps) (runs : s.runsNoMore t) (loads : s.loadsNoMore t)
    (slots : t.store.slots = s.store.slots) : HolderLaw t := by
  have view (tag) : t.view tag = s.view tag := by simp only [State.view, State.record?, directory]
  refine h.of_pins load loading (by simpa only [State.sorted, directory] using h.sorted)
    (fun _ => directory.trans) pinOps runs loads slots (fun tag => by rw [view]) (fun tag pinned => ?_)
    (fun tag settling => ?_) (fun tag x => ?_) fun w x live => h.sets w x ?_
  · rw [view]
    exact h.queues_view pinned
  · rw [view]
    exact h.settling_view settling
  · rw [view]
    exact h.exclusive_view
  · simpa only [State.wait, waits] using live

theorem of_bare (h : HolderLaw s) (same : t.bare = s.bare) : HolderLaw t := by
  have bare : HolderLaw s.bare := h.of_same (h.load.of_course rfl) rfl rfl rfl rfl
    (fun _ => ⟨le_rfl, le_rfl⟩) (fun _ _ => id) rfl
  rw [← same] at bare
  exact bare.of_same (bare.load.of_course rfl) rfl rfl rfl rfl (fun _ => ⟨le_rfl, le_rfl⟩)
    (fun _ _ => id) rfl

theorem freed (h : HolderLaw s) : HolderLaw s.freed :=
  h.of_same h.load.freed rfl rfl rfl rfl s.runsNoMore_freed
    (fun _ _ => State.mem_items_of_freed) rfl

/-! #### The tables (R4 to R6, R34, R36, R50, R59) -/

theorem removeLease (h : HolderLaw s) (i : LeaseSlot) : HolderLaw (s.removeLease i) := by
  have load := h.load.of_course (s.course_removeLease i)
  have frame := s.removeLease_frame i
  refine h.of_pins load (by rw [frame]) (State.sorted_removeLease h.sorted i)
    (fun _ none => State.removeLease_of_no_record none i) (by rw [frame])
    (State.runsNoMore_of_same (by rw [frame]) (by rw [frame]; rfl))
    (State.loadsNoMore_of_same (by rw [frame]; rfl)) (by rw [frame]) (fun tag => ?_)
    (fun tag pinned => ?_) (fun tag settling => ?_) (fun tag y mem exclusive => ?_)
    (fun w x live => h.sets w x (by rw [frame] at live; exact live))
  all_goals obtain ⟨p, eq⟩ := s.view_removeLease i tag
  · rw [eq]
  · rw [eq]
    exact h.queues_view pinned
  · rw [eq]
    simp only [h.settling_view settling, List.filter_nil]
  · rw [eq] at mem ⊢
    obtain ⟨holds, kept⟩ := List.mem_filter.1 mem
    simp only [h.exclusive_view holds exclusive, List.filter_cons_of_pos kept, List.filter_nil]

theorem removeWait (h : HolderLaw s) (w : WaitSlot) : HolderLaw (s.removeWait w) := by
  have frame := s.removeWait_fields w
  refine h.of_pins (h.load.removeWait w) (by rw [frame]) (State.sorted_removeWait h.sorted w)
    (fun _ none => State.removeWait_of_no_record none w) (by rw [frame])
    (State.runsNoMore_of_same (by rw [frame]) (by rw [frame]; rfl))
    (State.loadsNoMore_of_same (by rw [frame]; rfl)) (by rw [frame]) (fun tag => ?_)
    (fun tag pinned => ?_) (fun tag settling => ?_) (fun tag y mem exclusive => ?_)
    (fun v x live => ?_)
  case refine_5 =>
    rw [State.wait_removeWait] at live
    split at live
    · cases live
    · exact h.sets v x live
  all_goals obtain ⟨p, eq⟩ := s.view_removeWait w tag
  · rw [eq]
  · rw [eq]
    simp only [h.queues_view pinned, List.filter_nil]
  · rw [eq]
    exact h.settling_view settling
  · rw [eq] at mem ⊢
    exact h.exclusive_view mem exclusive

theorem shareLease (h : HolderLaw s) (i : LeaseSlot) (x : Lease) : HolderLaw (s.shareLease i x) := by
  have keeps (r : Record) : (r.shareHolder i).tag = r.tag := rfl
  have view := State.view_onTags (s := s) (t := s.shareLease i x) keeps (fun _ => rfl) rfl
  refine h.of_pins (h.load.of_course (s.course_shareLease i x)) rfl
    (State.sorted_onTags keeps h.sorted rfl) (fun _ none => ?_) rfl (State.runsNoMore_of_same rfl rfl)
    (State.loadsNoMore_of_same rfl) rfl (fun tag => ?_) (fun tag pinned => ?_)
    (fun tag settling => ?_) (fun tag y mem exclusive => ?_) h.sets
  · change onTags _ _ s.directory = []
    rw [none]
    rfl
  all_goals rw [view] at *
  · split <;> rfl
  · split <;> exact h.queues_view pinned
  · split
    · simp only [Record.shareHolder, h.settling_view settling, List.map_nil]
    · exact h.settling_view settling
  · by_cases ours : tag ∈ tagsOf x.set
    · rw [if_pos ours] at mem ⊢
      obtain ⟨z, holds, rfl⟩ := List.mem_map.1 mem
      split at exclusive
      · cases exclusive
      · simp only [Record.shareHolder, h.exclusive_view holds exclusive, List.map_cons, List.map_nil]
    · rw [if_neg ours] at mem ⊢
      exact h.exclusive_view mem exclusive

/-- Who joins compatible holders stands alone where he is exclusive, and joins no exclusive one (R6). -/
theorem joined_exclusive {r : Record} {i : LeaseSlot} {m : Mode} (compatible : r.admits m = true)
    {x : Holder} (mem : x ∈ r.holders ++ [⟨i, m⟩]) (exclusive : x.mode = .exclusive) :
    r.holders ++ [⟨i, m⟩] = [x] := by
  rw [List.mem_append, List.mem_singleton] at mem
  cases m with
  | exclusive =>
    have none : r.holders = [] := List.isEmpty_iff.1 compatible
    rw [none] at mem ⊢
    rcases mem with old | rfl
    · cases old
    · rfl
  | shared =>
    rcases mem with old | rfl
    · have := List.all_eq_true.1 compatible x old
      simp [exclusive] at this
    · cases exclusive

/-- A lease joins the holders of tags without a pin that are compatible with its set (R6, R27). -/
theorem grantLease (h : HolderLaw s) (ready : s.tokens.state = .ready) (i : LeaseSlot) (o : Owner)
    {set : List Entry} (d : Word) (distinct : (tagsOf set).Nodup)
    (unpinned : ∀ e ∈ set, (s.view e.tag).pin = .unpinned) (compatible : s.admitsAll set = true) :
    HolderLaw (s.grantLease i o set d) := by
  have joined := congrArg State.directory (s.joinHolders_eq i s.tokens.next set)
  have load := h.load.grantLease ready i o set d
  obtain ⟨own, other⟩ := State.view_joinAll (t := s.grantLease i o set d) (by intros; rfl) h.sorted
    distinct joined
  have loaded : s.loading = false := by
    by_contra loading
    have unit := (h.load.calm (by simpa using loading)).2.1
    rw [unit] at ready
    cases ready
  have tags (tag) : (∃ e ∈ set, e.tag = tag) ∨ tag ∉ tagsOf set := by
    by_cases asked : tag ∈ tagsOf set
    · exact .inl (List.mem_map.1 asked)
    · exact .inr asked
  refine h.of_pins load rfl (State.sorted_joinAll (by intros; rfl) h.sorted joined)
    (fun l => absurd (loaded.symm.trans l) Bool.false_ne_true) rfl
    (State.runsNoMore_of_same rfl rfl) (State.loadsNoMore_of_same rfl) rfl (fun tag => ?_)
    (fun tag pinned => ?_) (fun tag settling => ?_) (fun tag y mem exclusive => ?_) h.sets
  all_goals rcases tags tag with ⟨e, asked, rfl⟩ | apart
  · rw [own e asked]
  · rw [other tag apart]
  · exact absurd (unpinned e asked) pinned
  · rw [other tag apart]
    exact h.queues_view pinned
  · rw [unpinned e asked] at settling
    cases settling
  · rw [other tag apart]
    exact h.settling_view settling
  · rw [own e asked] at mem ⊢
    exact joined_exclusive (List.all_eq_true.1 compatible e asked) mem exclusive
  · rw [other tag apart] at mem ⊢
    exact h.exclusive_view mem exclusive

/-- An advance that starts is no pin operation (R104). -/
theorem startAdvance (h : HolderLaw s) (loaded : s.loading = false) : HolderLaw s.startAdvance := by
  have load := h.load.startAdvance loaded
  unfold State.startAdvance at load ⊢
  split
  case isTrue more =>
    rw [if_pos more] at load
    exact h.of_same load rfl rfl rfl rfl
      (fun k => ⟨State.writesOf_le nofun le_rfl, State.voidsOf_le nofun le_rfl⟩) (fun _ _ => id) rfl
  case isFalse last =>
    rw [if_neg last] at load
    have items := State.items_appendItem (s.setController .idle) (.advance (s.store.begun + 1) .failed)
    exact h.of_same load rfl rfl rfl rfl
      (State.runsNoMore_append (fun _ => ⟨nofun, nofun⟩) items fun _ => ⟨rfl, rfl⟩)
      (State.loadsNoMore_append items rfl) rfl

theorem requestAdvance (h : HolderLaw s) (loaded : s.loading = false) : HolderLaw s.requestAdvance := by
  have held : HolderLaw (s.setPendingAdvance true) :=
    h.of_same (h.load.keep_loaded loaded rfl id le_rfl) rfl rfl rfl rfl (fun _ => ⟨le_rfl, le_rfl⟩)
      (fun _ _ => id) rfl
  unfold State.requestAdvance
  split
  · exact h.startAdvance loaded
  · exact held
  · exact held
  · exact h
  · exact h

theorem demandToken (h : HolderLaw s) (waits : s.loading = true → s.creation ≠ []) :
    HolderLaw s.demandToken := by
  have loaded : s.loading = false := by
    by_contra loading
    have loading : s.loading = true := by simpa using loading
    exact waits loading (h.load.calm loading).1
  unfold State.demandToken
  split
  · have asks : HolderLaw { s with tokens := { s.tokens with state := .advancing } } :=
      h.of_same (h.load.keep_loaded loaded rfl id le_rfl) rfl rfl rfl rfl (fun _ => ⟨le_rfl, le_rfl⟩)
        (fun _ _ => id) rfl
    exact asks.requestAdvance loaded
  · exact h

theorem tableMove (h : HolderLaw s) (move : TableMove s t) : HolderLaw t := by
  cases move with
  | quiet unseen => exact h.of_bare unseen.bare
  | removeLease i => exact h.removeLease i
  | removeWait w => exact h.removeWait w
  | shareLease => exact h.shareLease _ _
  | @grant w x i live first compatible _ ready =>
    have frame := s.removeWait_fields w
    have views (tag) := s.view_removeWait w tag
    have unpinned (e) (mem : e ∈ x.set) : (s.view e.tag).pin = .unpinned := by
      by_contra pinned
      have head := List.all_eq_true.1 first e mem
      simp [h.queues_view pinned] at head
    refine (h.removeWait w).grantLease (by rw [frame]; exact ready) i x.owner x.duration
      (h.sets w x live) (fun e mem => ?_) ?_
    · obtain ⟨p, eq⟩ := views e.tag
      rw [eq]
      exact unpinned e mem
    · refine List.all_eq_true.2 fun e mem => ?_
      obtain ⟨p, eq⟩ := views e.tag
      have admits := List.all_eq_true.1 compatible e mem
      rw [eq]
      cases mode : e.mode <;> rw [mode] at admits <;> exact admits
  | demand waits => exact h.demandToken waits

theorem tableMoves (h : HolderLaw s) (moves : TableMoves s t) : HolderLaw t := by
  induction moves with
  | refl => exact h
  | tail _ last ih => exact ih.tableMove last

theorem retire (h : HolderLaw s) : HolderLaw s.retire := by
  have view (tag) := State.view_retire h.sorted tag
  refine h.of_pins (h.load.of_course s.course_retire) rfl (State.sorted_retire h.sorted)
    (fun _ none => ?_) rfl (State.runsNoMore_of_same rfl rfl) (State.loadsNoMore_of_same rfl) rfl
    (fun tag => (view tag).2.2) (fun tag pinned => (view tag).2.1.trans (h.queues_view pinned))
    (fun tag settling => (view tag).1.trans (h.settling_view settling))
    (fun tag y mem exclusive => ?_) h.sets
  · simp [State.retire, State.setDirectory, none]
  · rw [(view tag).1] at mem ⊢
    exact h.exclusive_view mem exclusive

/-- A wait forms on tags without a pin (R24, R45). -/
theorem createWait (h : HolderLaw s) (loaded : s.loading = false) (w : WaitSlot) (o : Owner)
    {r : AcquireRequest} (distinct : (tagsOf r.set).Nodup)
    (unpinned : ∀ e ∈ r.set, (s.view e.tag).pin = .unpinned) : HolderLaw (s.createWait w o r) := by
  have load := h.load.work (.quiet (.refl s))
  have frame : s.createWait w o r = { s.joinQueues w r.set with
      waits := (s.createWait w o r).waits
      waitGens := (s.createWait w o r).waitGens
      waitClock := (s.createWait w o r).waitClock
      creation := (s.createWait w o r).creation
      notices := (s.createWait w o r).notices } := by
    simp only [State.createWait]
    split <;> rfl
  have joined : (s.createWait w o r).directory = joinAll
      (fun _ q => { q with queue := q.queue ++ [w] }) r.set s.directory := by
    rw [frame]
    rfl
  obtain ⟨own, other⟩ := State.view_joinAll (by intros; rfl) h.sorted distinct joined
  have tags (tag) : (∃ e ∈ r.set, e.tag = tag) ∨ tag ∉ tagsOf r.set := by
    by_cases asked : tag ∈ tagsOf r.set
    · exact .inl (List.mem_map.1 asked)
    · exact .inr asked
  have loading : (s.createWait w o r).loading = s.loading := by rw [frame]; rfl
  have store : (s.createWait w o r).store = s.store := by rw [frame]; rfl
  have items : (s.createWait w o r).items = s.items := by rw [frame]; rfl
  refine h.of_pins (h.load.keep_loaded loaded loading (by rw [store]; exact id)
    (by rw [State.loads, State.loads, items])) loading
    (State.sorted_joinAll (by intros; rfl) h.sorted joined)
    (fun l => absurd (loaded.symm.trans l) Bool.false_ne_true) (by rw [frame]; rfl)
    (State.runsNoMore_of_same (by rw [store]) items) (State.loadsNoMore_of_same items) (by rw [store])
    (fun tag => ?_) (fun tag pinned => ?_) (fun tag settling => ?_) (fun tag y mem exclusive => ?_)
    (fun v x live => ?_)
  case refine_5 =>
    rw [State.wait_createWait] at live
    split at live
    · exact Option.some.inj live ▸ distinct
    · exact h.sets v x live
  all_goals rcases tags tag with ⟨e, asked, rfl⟩ | apart
  · rw [own e asked]
  · rw [other tag apart]
  · exact absurd (unpinned e asked) pinned
  · rw [other tag apart]
    exact h.queues_view pinned
  · rw [own e asked]
    exact h.settling_view settling
  · rw [other tag apart]
    exact h.settling_view settling
  · rw [own e asked] at mem ⊢
    exact h.exclusive_view mem exclusive
  · rw [other tag apart] at mem ⊢
    exact h.exclusive_view mem exclusive

/-! #### Pin operations begin (R118, R122) -/

/-- What names a slot in use is no operation in flight for a slot that no record names. -/
theorem no_op_of_no_record (h : HolderLaw s) {k : PinSlot}
    (none : ∀ tag, (s.view tag).pin.slot? ≠ some k) : ∀ e ∈ s.pinOps, e.slot ≠ k := by
  intro e mem same
  refine none e.tag ?_
  rw [h.phase_view mem, e.phase_slot?, same]

theorem none_runs (h : HolderLaw s) {k : PinSlot} (none : ∀ e ∈ s.pinOps, e.slot ≠ k) :
    s.writesOf k = 0 ∧ s.voidsOf k = 0 := by
  constructor
  · by_contra some
    obtain ⟨e, mem, slot, -⟩ := h.writes k (Nat.pos_of_ne_zero some)
    exact none e mem slot
  · by_contra some
    obtain ⟨e, mem, slot, -⟩ := h.voids k (Nat.pos_of_ne_zero some)
    exact none e mem slot

/-- The law of a state whose controller has begun the pin operation of a new entry, on a tag that the entry's
phase is set for, with the slots of the other tags as they were. -/
theorem beginPinOp (h : HolderLaw s) {e : PinOp} (load : LoadLaw t) (loaded : t.loading = false)
    (noLoad : t.loads = 0) (sorted : t.sorted) (pinOps : t.pinOps = s.pinOps ++ [e])
    (fresh : ∀ f ∈ s.pinOps, f.slot ≠ e.slot ∧ f.tag ≠ e.tag)
    (controller : t.store.controller
      = match e.kind with | .write => .busyPinWrite e.slot | .void => .busyPinVoid e.slot)
    (items : t.items = s.items)
    (own : (t.view e.tag).pin = e.phase)
    (others : ∀ tag, tag ≠ e.tag → t.view tag = s.view tag ∧ (s.view tag).pin.slot? ≠ some e.slot)
    (slots : ∀ k, t.store.slots[k].state = .blank → k ≠ e.slot ∧ s.store.slots[k].state = .blank)
    (queue : (t.view e.tag).queue = [])
    (settling : e.kind = .write → (t.view e.tag).holders = [])
    (exclusive : ∀ x ∈ (t.view e.tag).holders, x.mode = .exclusive → (t.view e.tag).holders = [x])
    (waits : t.waits = s.waits) : HolderLaw t := by
  have runs := State.runs_of_begin controller items
  have idle := h.none_runs fun f mem => (fresh f mem).1
  have byTag (P : Record → Prop) (mine : P (t.view e.tag))
      (theirs : ∀ tag, tag ≠ e.tag → P (s.view tag)) (r) (mem : r ∈ t.directory) : P r := by
    rw [← State.view_of_mem sorted mem]
    by_cases same : r.tag = e.tag
    · exact same ▸ mine
    · exact (others _ same).1 ▸ theirs _ same
  have pinned : (t.view e.tag).pin ≠ .unpinned := own ▸ e.phase_ne_unpinned
  have named (tag) (slot : (t.view tag).pin.slot? = some e.slot) : tag = e.tag := by
    by_contra other
    obtain ⟨view, apart⟩ := others tag other
    exact apart (view ▸ slot)
  refine ⟨load, fun l => absurd (loaded.symm.trans l) Bool.false_ne_true, ?loads, sorted, ?phases, ?apart,
    ?once, ?writes, ?voids, ?named, ?spent, ?queues, ?settling, ?sets, ?exclusive⟩
  case loads =>
    intro begun active mem
    exact absurd rfl (List.countP_eq_zero.1 noLoad _ mem)
  case phases =>
    intro f mem
    rw [pinOps, List.mem_append, List.mem_singleton] at mem
    rcases mem with old | rfl
    · have view := (others f.tag (fresh f old).2).1
      have phase := h.phase_view old
      rw [← view] at phase
      have pinned : (t.view f.tag).pin ≠ .unpinned := phase ▸ f.phase_ne_unpinned
      exact ⟨_, State.view_mem_of_pinned pinned, t.view_tag _, phase⟩
    · exact ⟨_, State.view_mem_of_pinned pinned, t.view_tag _, own⟩
  case apart =>
    rw [pinOps, List.map_append, List.nodup_append]
    refine ⟨h.apart, List.nodup_singleton _, fun a old b new => ?_⟩
    obtain ⟨f, mem, rfl⟩ := List.mem_map.1 old
    rw [List.map_singleton, List.mem_singleton] at new
    exact new ▸ (fresh f mem).1
  case once =>
    intro k
    obtain ⟨write, void⟩ := runs k
    have once := h.once k
    by_cases same : e.slot = k
    · subst same
      cases kind : e.kind <;> simp [kind, idle] at write void <;> omega
    · simp only [same, and_false, if_false] at write void
      omega
  case writes =>
    intro k some
    rw [pinOps]
    by_cases new : e.kind = .write ∧ e.slot = k
    · exact ⟨e, List.mem_append_right _ (List.mem_singleton_self e), new.2, new.1⟩
    · have write := (runs k).1
      rw [if_neg new] at write
      obtain ⟨f, mem, named⟩ := h.writes k (by omega)
      exact ⟨f, List.mem_append_left _ mem, named⟩
  case voids =>
    intro k some
    rw [pinOps]
    by_cases new : e.kind = .void ∧ e.slot = k
    · exact ⟨e, List.mem_append_right _ (List.mem_singleton_self e), new.2, new.1⟩
    · have void := (runs k).2
      rw [if_neg new] at void
      obtain ⟨f, mem, named⟩ := h.voids k (by omega)
      exact ⟨f, List.mem_append_left _ mem, named⟩
  case named =>
    intro r one q other pinned same
    rw [← State.view_of_mem sorted one] at pinned same ⊢
    rw [← State.view_of_mem sorted other] at same ⊢
    refine congrArg t.view ?_
    by_cases mine : r.tag = e.tag
    · rw [mine, own, e.phase_slot?] at same
      exact mine.trans (named _ same.symm).symm
    · by_cases theirs : q.tag = e.tag
      · rw [theirs, own, e.phase_slot?] at same
        exact absurd (named _ same) mine
      · rw [(others _ mine).1] at pinned same
        rw [(others _ theirs).1] at same
        exact h.named_view pinned same
  case spent =>
    refine byTag _ (fun k slot blank => ?_) fun tag _ k slot blank => ?_
    · rw [own, e.phase_slot?] at slot
      exact (slots k blank).1 (Option.some.inj slot).symm
    · exact h.spent_view slot (slots k blank).2
  case queues => exact byTag _ (fun _ => queue) fun tag _ => h.queues_view
  case settling =>
    refine byTag _ (fun isSettling => settling ?_) fun tag _ => h.settling_view
    rw [own] at isSettling
    unfold PinOp.phase at isSettling
    cases kind : e.kind with
    | write => rfl
    | void =>
      rw [kind] at isSettling
      cases isSettling
  case sets =>
    intro w x live
    exact h.sets w x (by simpa only [State.wait, waits] using live)
  case exclusive => exact byTag _ exclusive fun tag _ x mem => h.exclusive_view mem

theorem acceptPin (h : HolderLaw s) (client : Client) {d : PinData} {k : PinSlot} {i : LeaseSlot}
    (loaded : s.loading = false) (free : s.record? d.tag = none)
    (blank : s.store.slots[k].state = .blank) (idle : s.storeFree = true) :
    HolderLaw (s.acceptPin client d k i) := by
  obtain ⟨idle, -⟩ := State.storeFree_iff.1 idle
  have keeps (r : Record) : ({ r with pin := .pinning k } : Record).tag = r.tag := rfl
  have view (tag) := State.view_alterRecord (t := s.acceptPin client d k i) keeps h.sorted rfl tag
  have was : s.view d.tag = .fresh d.tag := State.view_eq_fresh free
  have own : (s.acceptPin client d k i).view d.tag = { Record.fresh d.tag with pin := .pinning k } := by
    rw [view, if_pos rfl, was]
  have unnamed (tag) : (s.view tag).pin.slot? ≠ some k := fun slot => h.spent_view slot blank
  refine h.beginPinOp (e := ⟨.write, k, d.tag, d.owner, i, client⟩) ?_ loaded (h.load.no_load loaded)
    (State.sorted_alterRecord keeps h.sorted rfl) rfl (fun f mem => ⟨?_, ?_⟩) rfl rfl ?_
    (fun tag other => ⟨?_, unnamed tag⟩) (fun j stillBlank => ?_) ?_ (fun _ => ?_) ?_ rfl
  · exact h.load.keep_loaded loaded rfl nofun le_rfl
  · exact h.no_op_of_no_record unnamed f mem
  · intro same
    have phase := h.phase_view mem
    rw [same, was] at phase
    exact f.phase_ne_unpinned phase.symm
  · rw [own]; rfl
  · rw [view, if_neg other]
  · have slots : (s.store.slots.set k { s.store.slots[k] with state := .writing, data := d })[j].state
        = .blank := stillBlank
    simp only [Fin.getElem_fin, Vector.getElem_set] at slots
    split at slots
    · cases slots
    case isFalse other => exact ⟨fun same => other (congrArg Fin.val same.symm), slots⟩
  · rw [own]; rfl
  · rw [own]; rfl
  · rw [own]; exact fun x mem => absurd mem List.not_mem_nil

theorem acceptUnpin (h : HolderLaw s) (client : Client) {k : PinSlot} {r : Record} {i : LeaseSlot}
    (loaded : s.loading = false) (settled : s.settledPin? k = some (r, i)) :
    HolderLaw (s.acceptUnpin client k r i) := by
  obtain ⟨active, mem, pin⟩ := State.record_of_settledPin? settled
  have was : s.view r.tag = r := State.view_of_mem h.sorted mem
  have pinned : (s.view r.tag).pin ≠ .unpinned := by rw [was, pin]; nofun
  have slot : (s.view r.tag).pin.slot? = some k := by rw [was, pin]; rfl
  have keeps (q : Record) : ({ q with pin := .unpinning k } : Record).tag = q.tag := rfl
  have view (tag) := State.view_onTag (t := s.acceptUnpin client k r i) keeps pinned rfl tag
  have apart (f) (op : f ∈ s.pinOps) : f.tag ≠ r.tag := by
    intro same
    have phase := h.phase_view op
    rw [same, was, pin] at phase
    exact f.phase_ne_pinned k phase.symm
  refine h.beginPinOp (e := ⟨.void, k, r.tag, s.leaseOwner i, i, client⟩) ?_ loaded (h.load.no_load loaded)
    (State.sorted_onTags keeps h.sorted rfl) rfl (fun f op => ⟨?_, apart f op⟩) rfl rfl ?_
    (fun tag other => ⟨?_, ?_⟩) (fun j stillBlank => ⟨?_, stillBlank⟩) ?_ nofun ?_ rfl
  · exact h.load.keep_loaded loaded rfl nofun le_rfl
  · intro same
    have phase := (congrArg PinState.slot? (h.phase_view op)).trans f.phase_slot?
    rw [same] at phase
    have phased : (s.view f.tag).pin ≠ .unpinned := h.phase_view op ▸ f.phase_ne_unpinned
    exact apart f op (h.named_view phased (phase.trans slot.symm))
  · rw [view, if_pos rfl]; rfl
  · rw [view, if_neg other]
  · exact fun named => other (h.named_view pinned (slot.trans named.symm)).symm
  · rintro rfl
    have both := active.symm.trans stillBlank
    cases both
  · rw [view, if_pos rfl]
    exact h.queues_view pinned
  · rw [view, if_pos rfl]
    exact fun x => h.exclusive_view

theorem work (h : HolderLaw s) (work : Work s t) : HolderLaw t := by
  cases work with
  | quiet unseen => exact h.of_bare unseen.bare
  | tables moves => exact (h.tableMoves moves).retire
  | grant o _ _ ready distinct unpinned compatible =>
    exact h.grantLease ready _ o _ distinct unpinned compatible
  | createWait o loaded _ distinct unpinned => exact h.createWait loaded _ o distinct unpinned
  | demand loaded => exact h.demandToken fun l => absurd (loaded.symm.trans l) Bool.false_ne_true
  | acceptPin client loaded free blank idle => exact h.acceptPin client loaded free blank idle
  | acceptUnpin client loaded settled => exact h.acceptUnpin client loaded settled
  | renew =>
    exact h.of_same (h.load.of_course (by simp)) rfl rfl rfl rfl (State.runsNoMore_of_same rfl rfl)
      (State.loadsNoMore_of_same rfl) rfl

/-! #### Pin operations end (R119, R120, R123, R124) -/

/-- The entry of a pin operation whose item is served: the one of its slot, of the item's kind (R116). -/
theorem op_of_serving (h : HolderLaw s) {k : PinSlot} {e : PinOp} (entry : s.pinOp? k = some e)
    {kind : PinOpKind} {r : StepResult} (taken : s.servingItem
      (match kind with | .write => .pinWrite k r | .void => .pinVoid k r)) :
    e ∈ s.pinOps ∧ e.slot = k ∧ e.kind = kind
      ∧ s.freed.writesOf k = 0 ∧ s.freed.voidsOf k = 0 := by
  have mem : e ∈ s.pinOps := List.mem_of_find?_eq_some entry
  have slot : e.slot = k := by simpa using List.find?_some entry
  have once := h.once k
  have fewer := s.runsNoMore_freed k
  have write := State.writesOf_serving taken k
  have void := State.voidsOf_serving taken k
  cases kind with
  | write =>
    simp only [WorkItem.writes, beq_self_eq_true, if_true] at write
    obtain ⟨f, op, named, isWrite⟩ := h.writes k (by omega)
    exact ⟨mem, slot, h.op_of_slot op mem (named.trans slot.symm) ▸ isWrite, by omega, by omega⟩
  | void =>
    simp only [WorkItem.voids, beq_self_eq_true, if_true] at void
    obtain ⟨f, op, named, isVoid⟩ := h.voids k (by omega)
    exact ⟨mem, slot, h.op_of_slot op mem (named.trans slot.symm) ▸ isVoid, by omega, by omega⟩

/-- The law of a state in which a pin operation's entry and its run are gone, with its tag pinned or without
pin state, and the pin states of the other tags as they were. -/
theorem endPinOp (h : HolderLaw s) {e : PinOp} (op : e ∈ s.pinOps) (load : LoadLaw t)
    (loaded : t.loading = false) (sorted : t.sorted)
    (pinOps : t.pinOps = s.pinOps.eraseP fun f => f.slot == e.slot)
    (runs : s.runsNoMore t) (gone : t.writesOf e.slot = 0 ∧ t.voidsOf e.slot = 0)
    (own : (t.view e.tag).pin = .pinned e.slot ∨ (t.view e.tag).pin = .unpinned)
    (pins : ∀ tag, tag ≠ e.tag → (t.view tag).pin = (s.view tag).pin)
    (slots : t.store.slots = s.store.slots)
    (queues : ∀ tag, (s.view tag).pin ≠ .unpinned → (t.view tag).queue = [])
    (settling : ∀ tag, tag ≠ e.tag → (s.view tag).pin.settling = true → (t.view tag).holders = [])
    (exclusive : ∀ tag, ∀ x ∈ (t.view tag).holders, x.mode = .exclusive → (t.view tag).holders = [x])
    (waits : t.waits = s.waits) : HolderLaw t := by
  have phase := h.phase_view op
  have slotWas : (s.view e.tag).pin.slot? = some e.slot := by rw [phase, e.phase_slot?]
  -- The pin states name the slots that they named, or none.
  have slotOf (tag) (pinned : (t.view tag).pin ≠ .unpinned) :
      (t.view tag).pin.slot? = (s.view tag).pin.slot? := by
    by_cases mine : tag = e.tag
    · subst mine
      rw [own.resolve_right pinned, slotWas]
      rfl
    · rw [pins tag mine]
  have pinnedWas (tag) (pinned : (t.view tag).pin ≠ .unpinned) : (s.view tag).pin ≠ .unpinned := by
    have slot := slotOf tag pinned
    intro none
    rw [none] at slot
    exact pinned (PinState.slot?_eq_none.1 slot)
  have left {f : PinOp} : f ∈ t.pinOps ↔ f ∈ s.pinOps ∧ f.slot ≠ e.slot := by
    rw [pinOps]
    exact PinOp.mem_eraseP h.apart
  refine ⟨load, fun l => absurd (loaded.symm.trans l) Bool.false_ne_true, ?loads, sorted, ?phases, ?apart,
    ?once, ?writes, ?voids, ?named, ?spent, ?queues, ?settling, ?sets, ?exclusive⟩
  case loads =>
    intro begun active mem
    exact absurd rfl (List.countP_eq_zero.1 (load.no_load loaded) _ mem)
  case phases =>
    intro f mem
    obtain ⟨old, other⟩ := left.1 mem
    have apart : f.tag ≠ e.tag := fun same => other (by
      have phases := (h.phase_view old).symm.trans (same ▸ phase)
      have := congrArg PinState.slot? phases
      rw [f.phase_slot?, e.phase_slot?] at this
      exact Option.some.inj this)
    have phase := (pins f.tag apart).trans (h.phase_view old)
    have pinned : (t.view f.tag).pin ≠ .unpinned := phase ▸ f.phase_ne_unpinned
    exact ⟨_, State.view_mem_of_pinned pinned, t.view_tag _, phase⟩
  case apart =>
    rw [pinOps]
    exact h.apart.sublist (List.eraseP_sublist.map _)
  case once =>
    intro k
    have := h.once k
    have := runs k
    omega
  case writes =>
    intro k some
    obtain ⟨f, mem, slot, kind⟩ := h.writes k (some.trans_le (runs k).1)
    refine ⟨f, left.2 ⟨mem, fun same => ?_⟩, slot, kind⟩
    rw [← slot, same, gone.1] at some
    omega
  case voids =>
    intro k some
    obtain ⟨f, mem, slot, kind⟩ := h.voids k (some.trans_le (runs k).2)
    refine ⟨f, left.2 ⟨mem, fun same => ?_⟩, slot, kind⟩
    rw [← slot, same, gone.2] at some
    omega
  case named =>
    intro r one q other pinned same
    rw [← State.view_of_mem sorted one] at pinned same ⊢
    rw [← State.view_of_mem sorted other] at same ⊢
    have both : (t.view q.tag).pin ≠ .unpinned := fun none =>
      pinned (PinState.slot?_eq_none.1 (same.trans (PinState.slot?_eq_none.2 none)))
    rw [slotOf _ pinned, slotOf _ both] at same
    rw [h.named_view (pinnedWas _ pinned) same]
  case spent =>
    intro r mem k slot
    rw [← State.view_of_mem sorted mem] at slot
    have pinned : (t.view r.tag).pin ≠ .unpinned := fun none => by
      rw [none] at slot
      cases slot
    rw [slotOf _ pinned] at slot
    rw [slots]
    exact h.spent_view slot
  case queues =>
    intro r mem pinned
    rw [← State.view_of_mem sorted mem] at pinned ⊢
    exact queues _ (pinnedWas _ pinned)
  case settling =>
    intro r mem isSettling
    rw [← State.view_of_mem sorted mem] at isSettling ⊢
    by_cases mine : r.tag = e.tag
    · rw [mine] at isSettling
      rcases own with pinned | unpinned
      · rw [pinned] at isSettling
        cases isSettling
      · rw [unpinned] at isSettling
        cases isSettling
    · rw [pins _ mine] at isSettling
      exact settling _ mine isSettling
  case sets =>
    intro w x live
    exact h.sets w x (by simpa only [State.wait, waits] using live)
  case exclusive =>
    intro r mem
    rw [← State.view_of_mem sorted mem]
    exact exclusive _

/-- The pin of an entry holds its tag alone (R119). -/
theorem settlePin (h : HolderLaw s) {k : PinSlot} {e : PinOp}
    (taken : s.servingItem (.pinWrite k .good)) (entry : s.pinOp? k = some e) :
    HolderLaw (s.settlePin e).freed := by
  obtain ⟨op, slot, kind, gone⟩ := h.op_of_serving (kind := .write) entry taken
  have phase := h.phase_view op
  have pinned : (s.view e.tag).pin ≠ .unpinned := phase ▸ e.phase_ne_unpinned
  have isSettling : (s.view e.tag).pin.settling = true := by
    rw [phase, PinOp.phase, kind]
    rfl
  have keeps (r : Record) : ({ r with
      holders := r.holders ++ [⟨e.leaseSlot, .exclusive⟩], pin := .pinned e.slot } : Record).tag
        = r.tag := rfl
  have view := State.view_onTag (t := (s.settlePin e).freed) keeps pinned rfl
  have loaded := h.not_loading op
  refine h.endPinOp op (h.load.freed.of_course rfl) loaded (State.sorted_onTags keeps h.sorted rfl) rfl
    s.runsNoMore_freed (slot ▸ gone) (.inl ?_) (fun tag other => ?_) rfl (fun tag was => ?_)
    (fun tag other settling => ?_) (fun tag x mem exclusive => ?_) rfl
  · rw [view, if_pos rfl]
  · rw [view, if_neg other]
  · rw [view]
    split <;> exact h.queues_view was
  · rw [view, if_neg other]
    exact h.settling_view settling
  · by_cases mine : tag = e.tag
    · subst mine
      rw [view, if_pos rfl] at mem ⊢
      simp only [h.settling_view isSettling, List.nil_append, List.mem_singleton] at mem ⊢
      rw [mem]
    · rw [view, if_neg mine] at mem ⊢
      exact h.exclusive_view mem exclusive

/-- The pin of an entry stays (R124). -/
theorem keepPin (h : HolderLaw s) {k : PinSlot} {e : PinOp}
    (taken : s.servingItem (.pinVoid k .failed)) (entry : s.pinOp? k = some e) :
    HolderLaw (s.keepPin e).freed := by
  obtain ⟨op, slot, -, gone⟩ := h.op_of_serving (kind := .void) entry taken
  have pinned : (s.view e.tag).pin ≠ .unpinned := h.phase_view op ▸ e.phase_ne_unpinned
  have keeps (r : Record) : ({ r with pin := .pinned e.slot } : Record).tag = r.tag := rfl
  have view := State.view_onTag (t := (s.keepPin e).freed) keeps pinned rfl
  refine h.endPinOp op (h.load.freed.of_course rfl) (h.not_loading op)
    (State.sorted_onTags keeps h.sorted rfl) rfl s.runsNoMore_freed (slot ▸ gone) (.inl ?_)
    (fun tag other => ?_) rfl (fun tag was => ?_) (fun tag other settling => ?_)
    (fun tag x mem exclusive => ?_) rfl
  · rw [view, if_pos rfl]
  · rw [view, if_neg other]
  · rw [view]
    split <;> exact h.queues_view was
  · rw [view, if_neg other]
    exact h.settling_view settling
  · rw [view] at mem ⊢
    split at mem <;> split <;> exact h.exclusive_view mem exclusive

/-- The pin of an entry is given up, and its lease with it (R120, R123). -/
theorem giveUpPin (h : HolderLaw s) {k : PinSlot} {e : PinOp}
    (taken : s.servingItem (.pinWrite k .failed) ∨ s.servingItem (.pinVoid k .good))
    (entry : s.pinOp? k = some e) : HolderLaw (s.giveUpPin e).freed := by
  have removed := h.removeLease e.leaseSlot
  have frame := s.removeLease_frame e.leaseSlot
  have entry' : (s.removeLease e.leaseSlot).pinOp? k = some e := by
    rw [frame]
    exact entry
  have serves (item) (own : s.servingItem item) : (s.removeLease e.leaseSlot).servingItem item := by
    rw [frame]
    exact own
  obtain ⟨op, slot, gone⟩ : e ∈ (s.removeLease e.leaseSlot).pinOps ∧ e.slot = k
      ∧ (s.removeLease e.leaseSlot).freed.writesOf k = 0
      ∧ (s.removeLease e.leaseSlot).freed.voidsOf k = 0 := by
    rcases taken with write | void
    · obtain ⟨op, slot, -, gone⟩ := removed.op_of_serving (kind := .write) entry' (serves _ write)
      exact ⟨op, slot, gone⟩
    · obtain ⟨op, slot, -, gone⟩ := removed.op_of_serving (kind := .void) entry' (serves _ void)
      exact ⟨op, slot, gone⟩
  have pinned : ((s.removeLease e.leaseSlot).view e.tag).pin ≠ .unpinned :=
    removed.phase_view op ▸ e.phase_ne_unpinned
  have keeps (r : Record) : ({ r with pin := .unpinned } : Record).tag = r.tag := rfl
  have view := State.view_onTag (t := (s.giveUpPin e).freed) keeps pinned rfl
  refine removed.endPinOp op (removed.load.freed.of_course rfl) (removed.not_loading op)
    (State.sorted_onTags keeps removed.sorted rfl) rfl (State.runsNoMore_freed _) (slot ▸ gone) (.inr ?_)
    (fun tag other => ?_) rfl (fun tag was => ?_) (fun tag other settling => ?_)
    (fun tag x mem exclusive => ?_) rfl
  · rw [view, if_pos rfl]
  · rw [view, if_neg other]
  · rw [view]
    split <;> exact removed.queues_view was
  · rw [view, if_neg other]
    exact removed.settling_view settling
  · rw [view] at mem ⊢
    split at mem <;> split <;> exact removed.exclusive_view mem exclusive

/-! #### The load and the store (R111, R114, R107 to R109) -/

/-- The law of a part that has loaded its pins, each alone on its tag, and runs no pin operation (R114). -/
theorem of_loaded_pins {active : List (PinSlot × PinData)} (load : LoadLaw t) (loaded : t.loading = false)
    (sorted : t.sorted) (noOp : t.pinOps = []) (runs : ∀ k, t.writesOf k = 0 ∧ t.voidsOf k = 0)
    (names : (active.map Prod.fst).Nodup) (slots : ∀ p ∈ active, t.store.slots[p.1].state = .active)
    (records : ∀ r ∈ t.directory, r = .fresh r.tag ∨ ∃ p ∈ active, p.2.tag = r.tag
      ∧ ∃ i, r = ⟨r.tag, [⟨i, .exclusive⟩], [], 0, .pinned p.1⟩)
    (sets : ∀ w x, t.wait w = some x → (tagsOf x.set).Nodup) : HolderLaw t := by
  have named (r) (mem : r ∈ t.directory) (k) (slot : r.pin.slot? = some k) :
      ∃ p ∈ active, p.2.tag = r.tag ∧ p.1 = k := by
    rcases records r mem with fresh | ⟨p, listed, tag, i, made⟩
    · rw [fresh] at slot
      cases slot
    · rw [made] at slot
      exact ⟨p, listed, tag, Option.some.inj slot⟩
  refine ⟨load, fun l => absurd (loaded.symm.trans l) Bool.false_ne_true, fun b a mem => ?_, sorted,
    fun e mem => ?_, by rw [noOp]; exact List.nodup_nil, fun k => ?_, fun k some => ?_, fun k some => ?_,
    fun r one q other pin same => ?_, fun r mem k slot => ?_, fun r mem pin => ?_,
    fun r mem settling => ?_, sets, fun r mem x holds exclusive => ?_⟩
  · exact absurd rfl (List.countP_eq_zero.1 (load.no_load loaded) _ mem)
  · rw [noOp] at mem
    cases mem
  · have := runs k
    omega
  · have := runs k
    omega
  · have := runs k
    omega
  · cases slot : r.pin.slot? with
    | none => exact absurd (PinState.slot?_eq_none.1 slot) pin
    | some k =>
      obtain ⟨p, listed, tag, name⟩ := named r one k slot
      obtain ⟨p', listed', tag', name'⟩ := named q other k (same ▸ slot)
      have pins : p = p' := List.inj_on_of_nodup_map names listed listed' (name.trans name'.symm)
      rw [← State.view_of_mem sorted one, ← State.view_of_mem sorted other, ← tag, ← tag', pins]
  · obtain ⟨p, listed, -, rfl⟩ := named r mem k slot
    rw [slots p listed]
    nofun
  · rcases records r mem with fresh | ⟨p, -, -, i, made⟩
    · exact absurd (by rw [fresh]; rfl) pin
    · rw [made]
  · rcases records r mem with fresh | ⟨p, -, -, i, made⟩
    · rw [fresh]
      rfl
    · rw [made] at settling
      cases settling
  · rcases records r mem with fresh | ⟨p, -, -, i, made⟩
    · rw [fresh] at holds
      cases holds
    · rw [made] at holds ⊢
      rw [List.mem_singleton.1 holds]

/-- The load's item makes its pins on empty tables (R114). -/
theorem serveLoad (h : HolderLaw s) {begun : Nat} {active : List (PinSlot × PinData)}
    (taken : s.servingItem (.load begun active))
    (load : LoadLaw { active.foldl State.loadPin s with
      tokens := s.tokens.afterLoad begun, loading := false, inService := none }) :
    HolderLaw { active.foldl State.loadPin s with
      tokens := s.tokens.afterLoad begun, loading := false, inService := none } := by
  have loading : s.loading = true := h.load.waiting (by
    rw [State.loads, State.items_of_serving taken, List.countP_cons_of_pos rfl]
    omega)
  obtain ⟨noRecord, noOp, idle⟩ := h.empty loading
  obtain ⟨tags, names, slots⟩ :=
    h.loaded begun active (State.items_of_serving taken ▸ List.mem_cons_self)
  have fresh (tag) : s.view tag = .fresh tag := by
    unfold State.view State.record?
    rw [noRecord]
    rfl
  obtain ⟨sorted, views⟩ := State.view_loadPins h.sorted tags fun p _ => fresh _
  have records (r) (mem : r ∈ (active.foldl State.loadPin s).directory) : r = .fresh r.tag
      ∨ ∃ p ∈ active, p.2.tag = r.tag ∧ ∃ i, r = ⟨r.tag, [⟨i, .exclusive⟩], [], 0, .pinned p.1⟩ := by
    have view := State.view_of_mem sorted mem
    rcases views r.tag with same | made
    · exact .inl (view.symm.trans (same.trans (fresh _)))
    · rw [view] at made
      exact .inr made
  have noneRuns (k) : s.freed.writesOf k = 0 ∧ s.freed.voidsOf k = 0 := by
    have := idle k
    have := s.runsNoMore_freed k
    omega
  rw [State.foldl_loadPin_eq] at load sorted records ⊢
  exact of_loaded_pins load rfl sorted noOp noneRuns names slots records h.sets

/-- The reading of the cells finds the pins that the load's item will make (R111, R112). -/
theorem startUpLoad (h : HolderLaw s) (reading : s.store.controller = .loading)
    (load : LoadLaw ({ s with store := s.store.loaded s.cells }.appendItem
        (.load s.cells.begunCount s.cells.activeSlots))) :
    HolderLaw ({ s with store := s.store.loaded s.cells }.appendItem
        (.load s.cells.begunCount s.cells.activeSlots)) := by
  obtain ⟨loading, noLoad⟩ := h.load.reading reading
  obtain ⟨noRecord, noOp, idle⟩ := h.empty loading
  have items := State.items_appendItem { s with store := s.store.loaded s.cells }
    (.load s.cells.begunCount s.cells.activeSlots)
  have runs : s.runsNoMore ({ s with store := s.store.loaded s.cells }.appendItem
      (.load s.cells.begunCount s.cells.activeSlots)) :=
    State.runsNoMore_append (fun _ => ⟨nofun, nofun⟩) items fun _ => ⟨rfl, rfl⟩
  have noRuns (k) := idle k
  have pairs := s.cells.activeSlots_pairwise
  have noRecords {P : Record → Prop} (r) (mem : r ∈ s.directory) : P r := by
    rw [noRecord] at mem
    cases mem
  refine ⟨load, fun _ => ⟨noRecord, noOp, fun k => ?_⟩, fun b a mem => ?_, h.sorted, fun e mem => ?_,
    h.apart, fun k => ?_, fun k some => ?_, fun k some => ?_, noRecords, noRecords, h.queues, h.settling,
    h.sets, h.exclusive⟩
  · have := idle k
    have := runs k
    omega
  · rw [items, List.mem_append, List.mem_singleton] at mem
    rcases mem with old | new
    · exact absurd rfl (List.countP_eq_zero.1 noLoad _ old)
    · obtain ⟨-, rfl⟩ := WorkItem.load.inj new
      refine ⟨List.pairwise_map.2 (pairs.imp And.right),
        List.pairwise_map.2 (pairs.imp fun both => ne_of_lt both.1), fun p listed => ?_⟩
      have entry := Cells.entry_of_active (Cells.mem_activeSlots.1 listed) s.store.slots[p.1]
      change (Vector.ofFn fun i => s.cells.entry i s.store.slots[i])[p.1].state = .active
      simp only [Fin.getElem_fin, Vector.getElem_ofFn] at entry ⊢
      rw [entry]
  · have op : e ∈ s.pinOps := mem
    rw [noOp] at op
    cases op
  · have := idle k
    have := runs k
    omega
  · have := idle k
    have := runs k
    omega
  · have := idle k
    have := runs k
    omega

/-- A slot that has been used may change its entry once the part has loaded. -/
theorem setSlotEntry (h : HolderLaw s) {k : PinSlot} {y : SlotEntry} (used : y.state ≠ .blank)
    (loaded : s.loading = false) : HolderLaw (s.setSlotEntry k y) :=
  { h with
    load := h.load.of_course (s.course_setSlotEntry k y)
    loaded := fun _ _ mem => absurd rfl (List.countP_eq_zero.1 (h.load.no_load loaded) _ mem)
    spent := fun r mem j slot => by
      have before := h.spent r mem j slot
      simp only [State.setSlotEntry, Fin.getElem_fin, Vector.getElem_set] at before ⊢
      split
      · exact used
      · exact before }

/-- The end of a pin operation leaves its run to its item, and its slot not BLANK (R108, R109). -/
theorem endPinRun (h : HolderLaw s) {k : PinSlot} {y : SlotEntry} (used : y.state ≠ .blank)
    (load : LoadLaw t) (loaded : s.loading = false) (loading : t.loading = s.loading)
    (directory : t.directory = s.directory) (waits : t.waits = s.waits) (pinOps : t.pinOps = s.pinOps)
    (slots : t.store.slots = s.store.slots.set k y) (runs : s.runsNoMore t) : HolderLaw t :=
  (h.setSlotEntry used loaded).of_same load loading directory waits pinOps runs
    (fun _ _ mem => absurd rfl (List.countP_eq_zero.1 (load.no_load (loading.trans loaded)) _ mem)) slots

theorem move (h : HolderLaw s) (move : Move s t) : HolderLaw t := by
  have load := h.load.move move
  cases move with
  | unseen same => exact h.of_bare same
  | work w => exact h.work w
  | tick =>
    have gains := s.gainsClockItems_tick
    rw [State.tickClock_frame] at load gains ⊢
    exact h.of_same load rfl rfl rfl rfl (State.runsNoMore_of_gains gains rfl)
      (fun _ _ => gains.mem fun n g => by cases n <;> nofun) rfl
  | runOut n =>
    have gains := s.gainsClockItems_appendIfRunOut n
    rw [State.appendIfRunOut_eq] at load gains ⊢
    exact h.of_same load rfl rfl rfl rfl (State.runsNoMore_of_gains gains rfl)
      (fun _ _ => gains.mem fun n g => by cases n <;> nofun) rfl
  | @clockItem n g =>
    have cleared : LoadLaw (s.clearMark n) := h.load.of_course (s.course_clearMark n)
    have gains := s.gainsClockItems_clearMark n
    have law : HolderLaw (s.clearMark n) := by
      rw [State.clearMark_eq] at cleared gains ⊢
      exact h.of_same cleared rfl rfl rfl rfl (State.runsNoMore_of_gains gains rfl)
        (fun _ _ => gains.mem fun n g => by cases n <;> nofun) rfl
    exact law.freed
  | load taken => exact h.serveLoad taken load
  | arm | fault =>
    exact h.of_same load rfl rfl rfl rfl s.runsNoMore_freed (fun _ _ => State.mem_items_of_freed) rfl
  | lostPinWrite | lostPinVoid => exact h.freed
  | settlePin taken entry => exact h.settlePin taken entry
  | keepPin taken entry => exact h.keepPin taken entry
  | giveUpPin taken entry moves => exact ((h.giveUpPin taken entry).tableMoves moves).retire
  | startUpLoad reading => exact h.startUpLoad reading load
  | @endAdvance n busy beginStep doneStep =>
    have items := State.items_completes (s.setEpochMarks n (advanceMarks beginStep doneStep))
      (.advance n (bothSteps beginStep doneStep))
    exact h.of_same load rfl rfl rfl rfl
      (State.runsNoMore_append (fun _ => ⟨nofun, nofun⟩) items fun _ => ⟨rfl, rfl⟩)
      (State.loadsNoMore_append items rfl) rfl
  | @endPinWrite k busy dataStep validStep x =>
    have running : 0 < s.writesOf k := by
      simp only [State.writesOf, busy, if_true]
      omega
    refine h.endPinRun ?_ load (h.not_loading_of_running (k := k) (by omega)) rfl rfl rfl rfl rfl
      (State.runsNoMore_of_end (e := .write) busy rfl (State.items_completes _ _))
    unfold SlotEntry.written
    cases bothSteps dataStep validStep <;> nofun
  | @endPinVoid k busy voidStep x =>
    have running : 0 < s.voidsOf k := by
      simp only [State.voidsOf, busy, if_true]
      omega
    exact h.endPinRun (y := { s.store.slots[k] with state := .void }) nofun load
      (h.not_loading_of_running (k := k) (by omega)) rfl rfl rfl rfl rfl
      (State.runsNoMore_of_end (e := .void) busy rfl (State.items_completes _ _))
  | startPending idle pending =>
    have loaded := h.load.loaded_of_advance (LoadLaw.advances_pos_of_pending pending)
    have waits : HolderLaw ((s.setController .idle).setPendingAdvance false) :=
      h.of_same (h.load.keep_loaded loaded rfl nofun le_rfl) rfl rfl rfl rfl
        (fun _ => ⟨State.writesOf_le nofun le_rfl, State.voidsOf_le nofun le_rfl⟩) (fun _ _ => id) rfl
    rw [State.endOperation, if_pos pending]
    exact waits.startAdvance loaded

/-- After a reset no record stands and no pin operation runs. -/
theorem reset {cells : Cells} {unstated : Nat} {pending : List Instr} :
    HolderLaw { State.reset with cells := cells, unstated := unstated, pending := pending } := by
  have none (k) : State.writesOf { State.reset with cells, unstated, pending } k = 0
      ∧ State.voidsOf { State.reset with cells, unstated, pending } k = 0 := by
    simp [State.writesOf, State.voidsOf, State.reset, State.items, Store.reset]
  exact ⟨LoadLaw.reset, fun _ => ⟨rfl, rfl, fun k => by have := none k; omega⟩, nofun, List.Pairwise.nil,
    nofun, List.nodup_nil, fun k => by have := none k; omega, fun k some => by have := none k; omega,
    fun k some => by have := none k; omega, nofun, nofun, nofun, nofun,
    fun w x live => by simp [State.wait, State.reset] at live, nofun⟩

end HolderLaw

/-- Settles O58: the law holds after a reset, and every move keeps it. -/
theorem everyStepKeepsTheHolderLaw : Obligations.EveryStepKeepsTheHolderLaw := by
  intro s t h stepped
  obtain ⟨u, answer, kept⟩ := step_keeps (P := HolderLaw) (fun _ _ _ _ _ => HolderLaw.reset)
    (fun _ _ h => h.of_same (h.load.of_course rfl) rfl rfl rfl rfl (fun _ => ⟨le_rfl, le_rfl⟩)
      (fun _ _ => id) rfl)
    (fun _ _ h => h.move) s h
  obtain rfl : u = t := by simpa using answer.symm.trans stepped
  exact kept

end
end Sys2Proof.Machine
end

section
/-! PROOFS. Law 2: the depths of the links' queues, and the length of every response (R148, R155). -/

namespace Sys2Proof.Machine

section
variable {s t u : State}

/-! ### The length of an answer (R155, R189) -/

/-- The answer's record keeps to 40 bytes: its payload leaves room for the code, the number and the outcome. -/
def Answer.fits (a : Answer) : Prop := a.payload.bytes.length ≤ 37

theorem Answer.fits_plain (o : OutcomeCode) : (Answer.plain o).fits := Nat.zero_le _

@[simp] theorem natWord_length (n : Nat) : (natWord n).length = 2 := rfl

@[simp] theorem filler_length (n : Nat) : (filler n).length = n := List.length_replicate

@[simp] theorem HolderView.bytes_length (h : HolderView) : h.bytes.length = 5 := by
  unfold HolderView.bytes
  cases h.ticks <;> rfl

theorem holderPlaces_length (hs : List HolderView) : (holderPlaces hs).length = 20 := by
  have places : ∀ few : List HolderView, (few.flatMap HolderView.bytes).length = 5 * few.length := by
    intro few
    induction few with
    | nil => rfl
    | cons h rest ih => simp [ih]; omega
  simp only [holderPlaces, List.length_append, places, List.length_take, filler_length]
  omega

theorem QueryResult.bytes_length (q : QueryResult) : q.bytes.length = 33 := by
  cases waiter : q.head <;> simp [QueryResult.bytes, holderPlaces_length, waiter]

theorem ListEntry.bytes_length (e : ListEntry) : e.bytes.length = 8 := by
  cases e <;> simp [ListEntry.bytes]

theorem PinTableEntry.bytes_length (e : PinTableEntry) : e.bytes.length = 5 := by
  unfold PinTableEntry.bytes
  cases e.data <;> rfl

/-- Records of one length, set in a row. -/
theorem length_flatMap_of_const {α : Type} {f : α → List Byte} {n : Nat} (each : ∀ x, (f x).length = n)
    (l : List α) : (l.flatMap f).length = n * l.length := by
  simp [List.length_flatMap, each, Nat.mul_comm]

theorem Payload.queued_length {w : WaitId} {ahead : List Nat} (few : ahead.length ≤ 4) :
    (Payload.queued w ahead).bytes.length = 7 := by
  simp only [Payload.bytes, List.length_append, waitIdBytes_length, natByte_length, filler_length,
    length_flatMap_of_const natByte_length]
  omega

theorem State.walk_length (s : State) (l : Link) (room : Nat) (positions : List WalkPosition) :
    (s.walk l room positions).1.length ≤ room := by
  induction positions generalizing room with
  | nil => simp [State.walk]
  | cons p rest ih =>
    cases room with
    | zero => simp [State.walk]
    | succ n =>
      unfold State.walk
      cases s.listEntry? l p with
      | none => exact ih (n + 1)
      | some e => exact Nat.succ_le_succ (ih n)

/-! ### The answer of every rule -/

/-- A rule whose answers keep to the length of a response (R155). -/
def RuleFits (rule : RequestRule) : Prop := ∀ s o p, (rule s o p).2.fits

theorem entryRefusal_fits {o : OutcomeCode} {set : List Entry} {fails : Entry → Bool} {a : Answer}
    (refused : entryRefusal o set fails = some a) : a.fits := by
  obtain ⟨i, -, rfl⟩ := Option.map_eq_some_iff.mp refused
  exact Nat.le_of_ble_eq_true rfl

theorem TokenUnit.refusal_fits {u : TokenUnit} {a : Answer} (refused : u.refusal = some a) : a.fits := by
  unfold TokenUnit.refusal at refused
  split at refused
  case h_1 | h_2 =>
    obtain rfl := Option.some.inj refused
    exact Answer.fits_plain _
  all_goals nomatch refused

theorem State.acquireRefusal_fits {o : Owner} {set : List Entry} {a : Answer}
    (refused : s.acquireRefusal o set = some a) : a.fits := by
  simp only [State.acquireRefusal, Option.orElse_eq_orElse, Option.orElse_eq_or, Option.or_eq_some_iff]
    at refused
  rcases refused with token | ⟨-, pinned | ⟨-, pending | ⟨-, owned | ⟨-, full⟩⟩⟩⟩
  · exact TokenUnit.refusal_fits token
  · exact entryRefusal_fits pinned
  · exact entryRefusal_fits pending
  · exact entryRefusal_fits owned
  · split at full
    · obtain rfl := Option.some.inj full
      exact Answer.fits_plain _
    · nomatch full

theorem State.acquireNoWait_fits (s : State) (set : List Entry) : (s.acquireNoWait set).2.fits := by
  unfold State.acquireNoWait
  split
  case h_1 a refused => exact entryRefusal_fits refused
  case h_2 => split <;> exact Answer.fits_plain _

theorem State.acquireWait_fits (s : State) (o : Owner) {r : AcquireRequest} (few : r.set.length ≤ 4) :
    (s.acquireWait o r).2.fits := by
  unfold State.acquireWait
  split
  case h_1 => exact Answer.fits_plain _
  case h_2 =>
    split
    · simp [Answer.fits, Payload.queued_length (ahead := r.set.map _) (by simpa using few)]
    · exact Answer.fits_plain _

theorem ruleAcquire_fits : RuleFits ruleAcquire := by
  intro s o p
  unfold ruleAcquire
  split
  case h_1 => exact Answer.fits_plain _
  case h_2 r read =>
    split
    case h_1 a refused => exact State.acquireRefusal_fits refused
    case h_2 =>
      unfold State.acquireServe
      split
      case h_1 => exact Nat.le_of_ble_eq_true rfl
      case h_2 =>
        split
        · exact s.acquireNoWait_fits _
        · exact s.acquireWait_fits o (acquireRequest?_sound read).2.2

theorem ruleList_fits : RuleFits ruleList := by
  intro s o p
  unfold ruleList
  split
  case h_1 => exact Answer.fits_plain _
  case h_2 positions _ =>
    have few := s.walk_length o.link 4 positions
    simp only [Answer.fits, Answer.done, Payload.bytes, List.length_append, natByte_length,
      wordBytes_length, length_flatMap_of_const ListEntry.bytes_length]
    omega

theorem rulePinTable_fits : RuleFits rulePinTable := by
  intro s o p
  unfold rulePinTable
  split
  case h_1 => exact Answer.fits_plain _
  case h_2 first _ =>
    have few : (pinTablePage first).length ≤ 6 := List.length_take_le _ _
    simp only [Answer.fits, Answer.done, Payload.bytes, List.length_append, natByte_length,
      length_flatMap_of_const PinTableEntry.bytes_length, List.length_map, List.length_cons,
      List.length_nil]
    omega

theorem ruleQuery_fits : RuleFits ruleQuery := by
  intro s o p
  unfold ruleQuery
  split
  · exact Answer.fits_plain _
  · simp [Answer.fits, Answer.done, Payload.bytes, QueryResult.bytes_length]

theorem rulePin_fits : RuleFits rulePin := by
  intro s o p
  unfold rulePin
  split
  case h_1 => exact Answer.fits_plain _
  case h_2 d _ =>
    unfold State.pinServe
    repeat' split
    all_goals exact Nat.le_of_ble_eq_true rfl

theorem ruleUnpin_fits : RuleFits ruleUnpin := by
  intro s o p
  unfold ruleUnpin
  repeat' split
  all_goals exact Nat.le_of_ble_eq_true rfl

theorem RequestRow.rule_fits {row : Extent → Instr} {ok : Byte → Bool} {rule : RequestRule}
    (h : RequestRow row ok rule) : RuleFits rule := by
  cases h with
  | acquire => exact ruleAcquire_fits
  | list => exact ruleList_fits
  | pinTable => exact rulePinTable_fits
  | query => exact ruleQuery_fits
  | pin => exact rulePin_fits
  | unpin => exact ruleUnpin_fits
  | caps => exact fun _ _ _ => Nat.le_of_ble_eq_true rfl
  | unknownRequest => exact fun _ _ _ => Answer.fits_plain _
  | renew | release | downgrade | cancel | check | detach | linkConfig | status | revoke | forceDetach
  | setTick | clear =>
    intro s o p
    simp only [ruleRenew, ruleRelease, ruleDowngrade, ruleCancel, ruleCheck, ruleDetach, ruleLinkConfig,
      ruleStatus, ruleRevoke, ruleForceDetach, ruleSetTick, ruleClear]
    split <;> exact Nat.le_of_ble_eq_true rfl

/-- No response is longer than 40 bytes (R155). -/
theorem RequestRow.response_fits {row : Extent → Instr} {ok : Byte → Bool} {rule : RequestRule}
    (h : RequestRow row ok rule) (s : State) (l : Link) (f : Frame) :
    (Response.bytes ⟨f.code, f.seq, (s.judge rule l f).2.outcome, (s.judge rule l f).2.payload⟩).length
      ≤ 40 := by
  have fits : (s.judge rule l f).2.fits := by
    cases passes : s.preamble l f with
    | some o =>
      rw [State.judge_of_refusal passes]
      exact Answer.fits_plain o
    | none =>
      rw [State.judge_of_pass passes]
      exact h.rule_fits s _ _
  unfold Answer.fits at fits
  simp only [Response.bytes, List.length_append, List.length_cons, List.length_nil]
  omega

end
end Sys2Proof.Machine
end

section
/-! PROOFS. Law 2: every step keeps the depths of the links' queues (R148, R149). -/

namespace Sys2Proof.Machine

section
variable {s t u : State}

/-! ### The law before the arbiter decides -/

/-- Law 2 without what the arbiter's decision brings about. -/
structure LinkBounds (s : State) : Prop where
  fifo : ∀ l, (s.link l).fifo.length ≤ 4
  responses : ∀ l, (s.link l).responses.length ≤ 8
  room : ∀ l f, s.inService = some (.request l f) → (s.link l).responses.length < 8
  held : ∀ l r, s.holdsBack l r → (s.link l).responses.length < 8 ∧ r.bytes.length ≤ 40
  sizes : ∀ l, ∀ r ∈ (s.link l).responses, r.bytes.length ≤ 40

theorem LinkLaw.bounds (h : LinkLaw s) : LinkBounds s := ⟨h.fifo, h.responses, h.room, h.held, h.sizes⟩

theorem LinkBounds.law (h : LinkBounds s) (settled : s.inService = none → ∀ src, s.eligible src = false) :
    LinkLaw s := ⟨h.fifo, h.responses, h.room, h.held, settled, h.sizes⟩

namespace LinkBounds

theorem undisturbed (h : LinkBounds s) (k : Undisturbed s t) : LinkBounds t where
  fifo l := (k.queues l).1 ▸ h.fifo l
  responses l := (k.queues l).2 ▸ h.responses l
  room l f taken := (k.queues l).2 ▸ h.room l f (k.inService ▸ taken)
  held l r back := (k.queues l).2 ▸ h.held l r (k.inService ▸ back : s.inService = _)
  sizes l := (k.queues l).2 ▸ h.sizes l

/-- With no request in service, nothing but the queues counts. -/
theorem of_no_request (fifo : ∀ l, (s.link l).fifo.length ≤ 4)
    (responses : ∀ l, (s.link l).responses.length ≤ 8)
    (sizes : ∀ l, ∀ r ∈ (s.link l).responses, r.bytes.length ≤ 40)
    (service : s.inService = none ∨ ∃ item, s.inService = some (.internal item)) : LinkBounds s where
  fifo := fifo
  responses := responses
  room l f taken := by rcases service with free | ⟨item, item⟩ <;> simp_all
  held l r back := by
    unfold State.holdsBack at back
    rcases service with free | ⟨item, item⟩ <;> simp_all
  sizes := sizes

theorem freed (h : LinkBounds s) : LinkBounds s.freed :=
  of_no_request h.fifo h.responses h.sizes (.inl rfl)

/-- A held-back response keeps the engine from taking anything. -/
theorem hold (h : LinkBounds s) {l : Link} {r : Response} (room : (s.link l).responses.length < 8)
    (fits : r.bytes.length ≤ 40) :
    LinkLaw { s with inService := some (.answering l r) } := by
  have service : ({ s with inService := some (.answering l r) } : State).inService
      = some (.answering l r) := rfl
  refine ⟨h.fifo, h.responses, fun k f taken => ?_, fun k q back => ?_, fun free => ?_, h.sizes⟩
  · nomatch service.symm.trans taken
  · obtain ⟨rfl, rfl⟩ := Service.answering.inj (Option.some.inj (service.symm.trans back))
    exact ⟨room, fits⟩
  · nomatch service.symm.trans free

/-- A response joins a queue with a free entry. -/
theorem appendResponse (h : LinkBounds s) {l : Link} {r : Response}
    (room : (s.link l).responses.length < 8) (fits : r.bytes.length ≤ 40) :
    LinkBounds (s.appendResponse l r).freed := by
  have link (k : Link) : (s.appendResponse l r).freed.link k
      = if k = l then { s.link l with responses := (s.link l).responses ++ [r] } else s.link k :=
    s.link_setLink l k _
  refine of_no_request (fun k => ?_) (fun k => ?_) (fun k q mem => ?_) (.inl rfl)
  · rw [link]
    split
    · exact h.fifo l
    · exact h.fifo k
  · rw [link]
    split
    · simpa using room
    · exact h.responses k
  · rw [link] at mem
    split at mem
    · rcases List.mem_append.1 mem with old | new
      · exact h.sizes l q old
      · exact List.mem_singleton.1 new ▸ fits
    · exact h.sizes k q mem

end LinkBounds

/-! ### The arbiter (R149) -/

theorem Source.mem_cycleAfter (position src : Source) : src ∈ position.cycleAfter := by
  cases position with
  | internal => rcases src with _ | l <;> [skip; cases l] <;> simp [Source.cycleAfter]
  | link k => cases k <;> rcases src with _ | l <;> [skip; cases l; skip; cases l; skip; cases l; skip; cases l] <;>
      simp [Source.cycleAfter]

theorem State.eligible_internal_iff : s.eligible .internal = true ↔ s.workList ≠ [] := by
  simp [State.eligible]

theorem State.eligible_link_iff {l : Link} : s.eligible (.link l) = true
    ↔ (s.link l).fifo ≠ [] ∧ (s.link l).responses.length < 8 := by
  simp only [State.eligible, Bool.and_eq_true, Bool.not_eq_true', List.isEmpty_eq_false_iff,
    decide_eq_true_eq, ne_eq]
  exact Iff.rfl

theorem State.arbitrate_of_busy (busy : s.inService.isSome = true) : s.arbitrate = s := by
  rw [State.arbitrate, if_pos busy]

theorem State.arbitrate_of_none (none : ∀ src, s.eligible src = false) : s.arbitrate = s := by
  have nothing : s.arbiter.cycleAfter.find? s.eligible = .none :=
    List.find?_eq_none.2 fun src _ => by simp [none src]
  simp only [State.arbitrate, nothing, ite_self]

theorem State.arbitrate_of_find {src : Source} (free : s.inService = none)
    (found : s.arbiter.cycleAfter.find? s.eligible = some src) : s.arbitrate = s.take src := by
  simp [State.arbitrate, free, found]

theorem State.take_internal {item : WorkItem} {rest : List WorkItem} (list : s.workList = item :: rest) :
    s.take .internal = { s with
      workList := rest, arbiter := .internal, inService := some (.internal item) } := by
  simp only [State.take, list]

theorem State.take_link {l : Link} {frame : Frame} {rest : List Frame}
    (queue : (s.link l).fifo = frame :: rest) :
    s.take (.link l) = { s with
      links := s.links.set l { s.link l with fifo := rest }
      arbiter := .link l
      inService := some (.request l frame) } := by
  simp only [State.take, queue]
  rfl

/-- The arbiter's decision makes the law whole. -/
theorem LinkBounds.arbitrate (h : LinkBounds s) : LinkLaw s.arbitrate := by
  by_cases busy : s.inService.isSome = true
  · rw [State.arbitrate_of_busy busy]
    exact h.law fun free => by simp [free] at busy
  have free : s.inService = none := by simpa using busy
  cases found : s.arbiter.cycleAfter.find? s.eligible with
  | none =>
    have none (src : Source) : s.eligible src = false := by
      simpa using List.find?_eq_none.1 found src (Source.mem_cycleAfter _ src)
    rw [State.arbitrate_of_none none]
    exact h.law fun _ => none
  | some src =>
    have chosen : s.eligible src = true := List.find?_some found
    rw [State.arbitrate_of_find free found]
    cases src with
    | internal =>
      obtain ⟨item, rest, list⟩ := List.exists_cons_of_ne_nil (State.eligible_internal_iff.1 chosen)
      rw [State.take_internal list]
      exact LinkBounds.law (.of_no_request h.fifo h.responses h.sizes (.inr ⟨item, rfl⟩)) nofun
    | link l =>
      obtain ⟨some, room⟩ := State.eligible_link_iff.1 chosen
      obtain ⟨frame, rest, queue⟩ := List.exists_cons_of_ne_nil some
      have link (k : Link) : (s.take (.link l)).link k
          = if k = l then { s.link l with fifo := rest } else s.link k := by
        rw [State.take_link queue]
        exact s.link_setLink l k _
      have same (k : Link) : ((s.take (.link l)).link k).responses = (s.link k).responses := by
        rw [link]
        split
        case isTrue eq => rw [eq]
        case isFalse => rfl
      have taken : (s.take (.link l)).inService = .some (.request l frame) := by
        rw [State.take_link queue]
      refine ⟨fun k => ?_, fun k => same k ▸ h.responses k, fun k f eq => ?_, fun k r back => ?_,
        fun none => ?_, fun k => same k ▸ h.sizes k⟩
      · rw [link]
        split
        · have := h.fifo l
          rw [queue] at this
          exact Nat.le_of_succ_le this
        · exact h.fifo k
      · rw [taken] at eq
        obtain ⟨rfl, -⟩ := Service.request.inj (Option.some.inj eq)
        rw [same]
        exact room
      · nomatch taken.symm.trans back
      · nomatch taken.symm.trans none

/-- An item that leaves the service and the links' queues ends with the law whole. -/
theorem LinkBounds.endItem (h : LinkBounds s) (k : Undisturbed s t) : LinkLaw t.endItem :=
  (h.undisturbed k).freed.arbitrate

/-- The law does not read the receivers. -/
theorem LinkLaw.undisturbed (h : LinkLaw s) (k : Undisturbed s t) (list : t.workList = s.workList) :
    LinkLaw t := by
  refine (h.bounds.undisturbed k).law fun free src => ?_
  rw [← h.settled (k.inService ▸ free) src]
  cases src with
  | internal => simp only [State.eligible, list]
  | link l => simp only [State.eligible, (k.queues l).1, (k.queues l).2]

end
end Sys2Proof.Machine
end

section
/-! PROOFS. Law 2: every command keeps the depths of the links' queues (R148, R155, R164, R167). -/

namespace Sys2Proof.Machine

section
variable {s t u : State}

/-! ### The windows (R161 to R169) -/

/-- A window leaves the service, adds no response, and fills no FIFO beyond its depth. -/
structure Received (s t : State) : Prop where
  inService : t.inService = s.inService
  responses : ∀ l, (t.link l).responses <:+ (s.link l).responses
  fifo : ∀ l, (t.link l).fifo.length ≤ max 4 (s.link l).fifo.length

namespace Received

theorem refl (s : State) : Received s s := ⟨rfl, fun _ => List.suffix_rfl, fun _ => le_max_right _ _⟩

theorem trans (h : Received s t) (k : Received t u) : Received s u where
  inService := k.inService.trans h.inService
  responses l := (k.responses l).trans (h.responses l)
  fifo l := (k.fifo l).trans (max_le (le_max_left _ _) (h.fifo l))

theorem of_undisturbed (k : Undisturbed s t) : Received s t where
  inService := k.inService
  responses l := (k.queues l).2 ▸ List.suffix_rfl
  fifo l := (k.queues l).1 ▸ le_max_right _ _

theorem setLink {l : Link} {x : LinkState} (responses : x.responses <:+ (s.link l).responses)
    (fifo : x.fifo.length ≤ max 4 (s.link l).fifo.length) : Received s (s.setLink l x) where
  inService := rfl
  responses k := by
    rw [State.link_setLink]
    split
    case isTrue same => exact same ▸ responses
    case isFalse => exact List.suffix_rfl
  fifo k := by
    rw [State.link_setLink]
    split
    case isTrue same => exact same ▸ fifo
    case isFalse => exact le_max_right _ _

/-- A change of a link that leaves its queues. -/
theorem of_setLink {l : Link} {x : LinkState} (responses : x.responses = (s.link l).responses)
    (fifo : x.fifo = (s.link l).fifo) : Received s (s.setLink l x) :=
  of_undisturbed (s.quiet_setLink l fifo responses).toUndisturbed

theorem markHead (s : State) (l : Link) (code : Byte) : Received s (s.markHead l code) := by
  unfold State.markHead
  split
  · exact of_undisturbed (.of_links rfl rfl)
  · exact of_setLink rfl rfl

theorem fetchDiscard (s : State) (l : Link) (code : Byte) : Received s (s.fetchDiscard l code) := by
  unfold State.fetchDiscard State.discardNotice State.discardResponse
  repeat' split
  case isTrue.isFalse.isTrue => exact setLink (List.tail_suffix _) (le_max_right _ _)
  all_goals exact of_undisturbed (.of_links rfl rfl)

theorem shiftPresentation (s : State) (l : Link) (code : Byte) (stream : List Byte) (shifted : Nat)
    (isHead : Bool) (n : Nat) : Received s (s.shiftPresentation l code stream shifted isHead n) := by
  unfold State.shiftPresentation
  split
  · refine Received.trans (t := s.setLink l { s.link l with
      receiver := .presenting code stream (shifted + n) isHead
      dout := (s.link l).dout ++ presentationSlice stream shifted n }) (of_setLink rfl rfl) ?_
    exact markHead _ l code
  · exact of_setLink rfl rfl

theorem beginPresentation (s : State) (l : Link) (code : Byte) (n : Nat) :
    Received s (s.beginPresentation l code n) :=
  (fetchDiscard s l code).trans (shiftPresentation _ l code _ _ _ n)

theorem collect (s : State) (l : Link) (status : Byte) (old new : List Byte) :
    Received s (s.collect l status old new) := by
  let t := s.setLink l { s.link l with
    receiver := .collecting status (old ++ new), dout := leadOut status (old ++ new).length }
  have kept : Received s t := of_setLink rfl rfl
  have more (x : LinkState) (responses : x.responses = (t.link l).responses)
      (fifo : x.fifo = (t.link l).fifo) : Received s (t.setLink l x) :=
    kept.trans (of_setLink responses fifo)
  simp only [State.collect]
  split
  case h_1 =>
    split
    case isTrue =>
      split
      · exact (more { t.link l with dout := leadOut status 2 } rfl rfl).trans
          (beginPresentation _ l _ _)
      · exact more _ rfl rfl
    case isFalse =>
      split
      · exact more _ rfl rfl
      · exact kept
  all_goals exact kept

theorem receiveBytes (s : State) (l : Link) (new : List Byte) : Received s (s.receiveBytes l new) := by
  unfold State.receiveBytes
  split
  case h_1 | h_2 => exact refl s
  case h_3 => exact collect s l _ _ new
  case h_4 => exact shiftPresentation s l _ _ _ _ _
  case h_5 => exact of_setLink rfl rfl

/-- A frame joins a FIFO that holds fewer than 4, or is dropped (R164). -/
theorem judgeFrame (x : LinkState) (bytes : List Byte) :
    (x.judgeFrame bytes).responses = x.responses
      ∧ (x.judgeFrame bytes).fifo.length ≤ max 4 x.fifo.length := by
  have dropped : x.fifo.length ≤ max 4 x.fifo.length := le_max_right _ _
  unfold LinkState.judgeFrame
  split
  case h_2 => exact ⟨rfl, dropped⟩
  case h_1 =>
    split
    case isFalse => exact ⟨rfl, dropped⟩
    case isTrue =>
      dsimp only
      split
      case isFalse => exact ⟨rfl, dropped⟩
      case isTrue =>
        unfold LinkState.offerFrame
        split
        case isFalse => exact ⟨rfl, dropped⟩
        case isTrue room =>
          change x.fifo.length < 4 at room
          refine ⟨rfl, ?_⟩
          simp only [List.length_append, List.length_singleton]
          omega

theorem selectRises (s : State) (l : Link) : Received s (s.selectRises l) := by
  unfold State.selectRises
  split
  case h_1 bytes _ =>
    split
    · have judged := judgeFrame (s.link l) bytes
      exact setLink (judged.1 ▸ List.suffix_rfl) judged.2
    · exact of_setLink rfl rfl
  all_goals exact of_setLink rfl rfl

end Received

theorem LinkBounds.received (h : LinkBounds s) (k : Received s t) : LinkBounds t where
  fifo l := (k.fifo l).trans (max_le (le_refl 4) (h.fifo l))
  responses l := (k.responses l).length_le.trans (h.responses l)
  room l f taken := (k.responses l).length_le.trans_lt (h.room l f (k.inService ▸ taken))
  held l r back := by
    obtain ⟨room, fits⟩ := h.held l r (k.inService ▸ back : s.inService = _)
    exact ⟨(k.responses l).length_le.trans_lt room, fits⟩
  sizes l r mem := h.sizes l r ((k.responses l).subset mem)

theorem LinkLaw.windowOf (h : LinkLaw s) (l : Link) (w : Segment) (ok : Byte → Bool) :
    LinkLaw (s.windowOf l w ok) := by
  unfold State.windowOf State.runSegment
  split
  case isFalse => exact h
  case isTrue =>
    have falls : Received s (if w.falls then s.selectFalls l else s) := by
      split
      · exact .of_setLink rfl rfl
      · exact .refl s
    have bytes := falls.trans (Received.receiveBytes _ l w.bytes)
    apply LinkBounds.arbitrate
    split
    · exact h.bounds.received (bytes.trans (Received.selectRises _ l))
    · exact h.bounds.received bytes

/-! ### The requests (R149, R155) -/

theorem LinkBounds.respond (h : LinkBounds s) {l : Link} {r : Response}
    (room : (s.link l).responses.length < 8) (fits : r.bytes.length ≤ 40) : LinkLaw (s.respond l r) :=
  (h.appendResponse room fits).arbitrate

theorem LinkLaw.serveCodes (h : LinkLaw s) {row : Extent → Instr} {ok : Byte → Bool}
    {rule : RequestRule} (r : RequestRow row ok rule) (extent : Extent) :
    LinkLaw (s.serveCodes ok rule extent) := by
  unfold State.serveCodes
  split
  case h_1 l f taken =>
    split
    case isFalse => exact h
    case isTrue own =>
      have left : Undisturbed s (s.judge rule l f).1 := (r.works_judge own s l).undisturbed
      have room : ((s.judge rule l f).1.link l).responses.length < 8 := by
        rw [(left.queues l).2]
        exact h.room l f taken
      have bounds := h.bounds.undisturbed left
      cases extent with
      | toItsEnd => exact bounds.respond room (r.response_fits s l f)
      | toItsResponse => exact bounds.hold room (r.response_fits s l f)
  case h_2 l q back =>
    obtain ⟨room, fits⟩ := h.held l q back
    cases extent with
    | toItsEnd =>
      dsimp only
      split
      · exact h.bounds.respond room fits
      · exact h
    | toItsResponse => exact h
  all_goals exact h

/-! ### The items (R78, R79, R87, R88, R114, R119 to R124) -/

theorem State.undisturbed_settleTables (s : State) (passRuns : Bool) :
    Undisturbed s (s.settleTables passRuns) := by
  obtain ⟨u, pass, settled⟩ := s.moves_settleTables passRuns
  rw [settled]
  exact pass.undisturbed.trans (.of_links rfl rfl)

theorem State.undisturbed_postUnreserved (s : State) (l : Link) (n : Notice) :
    Undisturbed s (s.postUnreserved l n) := (s.quiet_postUnreserved l n).toUndisturbed

theorem State.undisturbed_postReserved (s : State) (l : Link) (n : Notice) :
    Undisturbed s (s.postReserved l n) := .of_links rfl rfl

theorem State.undisturbed_clearMark (s : State) (n : CountdownName) : Undisturbed s (s.clearMark n) := by
  rw [State.clearMark_eq]
  exact .of_links rfl rfl

theorem LinkBounds.serveExpiry (h : LinkBounds s) (i : LeaseSlot) (g : Generation) :
    LinkLaw (s.serveExpiry i g) := by
  unfold State.serveExpiry
  refine h.endItem (Undisturbed.trans ?_ (State.undisturbed_clearMark _ _))
  split
  · exact ((s.undisturbed_removeLease i).trans (State.undisturbed_postUnreserved _ _ _)).trans
      (State.undisturbed_settleTables _ true)
  · exact .refl s

theorem LinkBounds.serveTimeout (h : LinkBounds s) (w : WaitSlot) (g : Generation) :
    LinkLaw (s.serveTimeout w g) := by
  unfold State.serveTimeout
  refine h.endItem (Undisturbed.trans ?_ (State.undisturbed_clearMark _ _))
  split
  · exact ((s.undisturbed_removeWait w).trans (State.undisturbed_postReserved _ _ _)).trans
      (State.undisturbed_settleTables _ true)
  · exact .refl s

theorem LinkBounds.serveLoad (h : LinkBounds s) (begun : Nat) (active : List (PinSlot × PinData)) :
    LinkLaw (s.serveLoad begun active) := by
  refine h.endItem (t := { active.foldl State.loadPin s with
    tokens := (active.foldl State.loadPin s).tokens.afterLoad begun, loading := false }) ?_
  rw [State.foldl_loadPin_eq]
  exact .of_links rfl rfl

theorem LinkBounds.serveAdvance (h : LinkBounds s) (n : Nat) (r : StepResult) :
    LinkLaw (s.serveAdvance n r) := by
  refine h.endItem (Undisturbed.trans ?_ (State.undisturbed_settleTables _ true))
  cases r with
  | good => exact .of_links rfl rfl
  | failed =>
    exact Undisturbed.trans (t := { s with tokens := ⟨.fault, s.tokens.epoch, 0⟩ }) (.of_links rfl rfl)
      (State.moves_abortWaits _ .tokenFault).undisturbed

theorem State.undisturbed_giveUpPin (s : State) (e : PinOp) : Undisturbed s (s.giveUpPin e) :=
  (s.undisturbed_removeLease e.leaseSlot).trans (.of_links rfl rfl)

theorem State.undisturbed_pinWritten (s : State) (e : PinOp) : Undisturbed s (s.pinWritten e) := by
  have settled : Undisturbed s (s.settlePin e) := .of_links rfl rfl
  exact (settled.trans (State.undisturbed_postReserved _ _ _)).trans
    (State.undisturbed_postUnreserved _ _ _)

theorem State.undisturbed_pinWriteFailed (s : State) (e : PinOp) : Undisturbed s (s.pinWriteFailed e) :=
  ((s.undisturbed_giveUpPin e).trans (State.undisturbed_postReserved _ _ _)).trans
    (State.undisturbed_settleTables _ true)

theorem State.undisturbed_pinVoided (s : State) (e : PinOp) : Undisturbed s (s.pinVoided e) :=
  (((s.undisturbed_giveUpPin e).trans (State.undisturbed_postReserved _ _ _)).trans
    (State.undisturbed_postUnreserved _ _ _)).trans (State.undisturbed_settleTables _ true)

theorem State.undisturbed_pinVoidFailed (s : State) (e : PinOp) : Undisturbed s (s.pinVoidFailed e) := by
  have kept : Undisturbed s (s.keepPin e) := .of_links rfl rfl
  exact kept.trans (State.undisturbed_postReserved _ _ _)

theorem LinkBounds.servePinWrite (h : LinkBounds s) (k : PinSlot) (r : StepResult) :
    LinkLaw (s.servePinWrite k r) := by
  refine h.endItem ?_
  split
  case h_1 => exact .refl s
  case h_2 e _ =>
    cases r with
    | good => exact s.undisturbed_pinWritten e
    | failed => exact s.undisturbed_pinWriteFailed e

theorem LinkBounds.servePinVoid (h : LinkBounds s) (k : PinSlot) (r : StepResult) :
    LinkLaw (s.servePinVoid k r) := by
  refine h.endItem ?_
  split
  case h_1 => exact .refl s
  case h_2 e _ =>
    cases r with
    | good => exact s.undisturbed_pinVoided e
    | failed => exact s.undisturbed_pinVoidFailed e

/-! ### Every command -/

theorem linkLaw_reset {cells : Cells} {unstated : Nat} {pending : List Instr} :
    LinkLaw { State.reset with cells := cells, unstated := unstated, pending := pending } := by
  have link (l : Link) : State.link { State.reset with cells, unstated, pending } l = .reset := by
    cases l <;> rfl
  refine LinkBounds.law (.of_no_request (fun l => ?_) (fun l => ?_) (fun l r mem => ?_) (.inl rfl))
    fun _ src => ?_
  · exact link l ▸ Nat.zero_le _
  · exact link l ▸ Nat.zero_le _
  · rw [link] at mem
    nomatch mem
  · rcases src with _ | l
    · rfl
    · simp only [State.eligible, link]
      rfl

/-- The end of a store operation leaves the service and the links. -/
theorem LinkBounds.endOperation (h : LinkBounds s) (inService : t.inService = s.inService)
    (links : t.links = s.links) : LinkLaw t.endOperation.arbitrate := by
  refine (h.undisturbed (t := t.endOperation) ?_).arbitrate
  rw [State.endOperation_eq]
  exact .of_links inService links

theorem LinkLaw.exec (h : LinkLaw s) (c : Instr) (answer : exec c s = .next t) : LinkLaw t := by
  have request {row : Extent → Instr} {ok : Byte → Bool} {rule : RequestRule}
      (r : RequestRow row ok rule) {extent : Extent} (answer : Machine.exec (row extent) s = .next t) :
      LinkLaw t := by
    rw [r.exec_eq] at answer
    cases answer
    exact h.serveCodes r extent
  cases c with
  | acquire => exact request .acquire answer
  | renew => exact request .renew answer
  | release => exact request .release answer
  | downgrade => exact request .downgrade answer
  | cancel => exact request .cancel answer
  | query => exact request .query answer
  | check => exact request .check answer
  | list => exact request .list answer
  | detach => exact request .detach answer
  | linkConfig => exact request .linkConfig answer
  | status => exact request .status answer
  | caps => exact request .caps answer
  | pinTable => exact request .pinTable answer
  | pin => exact request .pin answer
  | unpin => exact request .unpin answer
  | revoke => exact request .revoke answer
  | forceDetach => exact request .forceDetach answer
  | setTick => exact request .setTick answer
  | clear => exact request .clear answer
  | unknownRequest => exact request .unknownRequest answer
  | requestFrame | statusRead | fetchResponse | fetchDiscardResponse | fetchNotice
  | fetchDiscardNotice =>
    cases answer
    exact h.windowOf _ _ _
  | deviceReset =>
    cases answer
    exact linkLaw_reset
  | resetRelease low =>
    cases answer
    split
    · exact h.undisturbed ⟨rfl, fun l => by cases l <;> exact ⟨rfl, rfl⟩⟩ rfl
    · exact h
  | selectRiseAfterReset l =>
    cases answer
    split
    · exact h.undisturbed (s.quiet_setLink l (x := { s.link l with receiver := .idle }) rfl
        rfl).toUndisturbed rfl
    · exact h
  | startUpLoad =>
    cases answer
    split
    · exact (h.bounds.undisturbed (t := { s with store := s.store.loaded s.cells }.appendItem
        (.load s.cells.begunCount s.cells.activeSlots)) (.of_links rfl rfl)).arbitrate
    · exact h
  | tick =>
    cases answer
    split
    · exact h
    · refine (h.bounds.undisturbed (t := s.tickClock) ?_).arbitrate
      rw [State.tickClock_frame]
      exact .of_links rfl rfl
  | countdownReachesZero n =>
    cases answer
    split
    · exact h
    · refine (h.bounds.undisturbed (t := s.appendIfRunOut n) ?_).arbitrate
      rw [State.appendIfRunOut_eq]
      exact .of_links rfl rfl
  | advance | pinWrite | pinVoid =>
    cases answer
    split
    case h_1 => exact h.bounds.endOperation rfl rfl
    all_goals exact h
  | pendingAdvanceStart =>
    cases answer
    split
    · exact h.bounds.endOperation rfl rfl
    · exact h
  | expiry =>
    cases answer
    split
    · exact h.bounds.serveExpiry _ _
    · exact h
  | timeout =>
    cases answer
    split
    · exact h.bounds.serveTimeout _ _
    · exact h
  | loadCompletion =>
    cases answer
    split
    · exact h.bounds.serveLoad _ _
    · exact h
  | advanceCompletion =>
    cases answer
    split
    · exact h.bounds.serveAdvance _ _
    · exact h
  | pinWriteCompletion =>
    cases answer
    split
    · exact h.bounds.servePinWrite _ _
    · exact h
  | pinVoidCompletion =>
    cases answer
    split
    · exact h.bounds.servePinVoid _ _
    · exact h

end

/-- Settles O50: what the arbiter's decision does not bring about is kept by every service, window and store
operation, and the decision brings about the rest. -/
theorem everyStepKeepsTheLinkLaw : Obligations.EveryStepKeepsTheLinkLaw := by
  intro s t h answer
  unfold step at answer
  cases front : s.pending with
  | nil =>
    rw [front] at answer
    cases answer
    exact h
  | cons c rest =>
    rw [front] at answer
    have ready : LinkLaw { s with pending := rest } := h.undisturbed (.of_links rfl rfl) rfl
    exact ready.exec c answer

end Sys2Proof.Machine
end

section
/-! PROOFS. The arbiter, the state after reset, the shared operations on tokens and notices, and the requests
that set the divider and report the part. -/

namespace Sys2Proof.Machine

section
variable {s t u : State}

/-! ### Steps, the arbiter, reset -/

/-- Settles O1, by the two cases of the queue. -/
theorem stepTakesTheFrontCommand : Obligations.StepTakesTheFrontCommand := by
  intro s
  refine ⟨fun c rest front => ?_, fun empty => ?_⟩
  · simp only [step, front]
  · simp only [step, empty]

/-- A source stands last in the cycle that begins after it (R149). -/
theorem Source.cycleAfter_eq_rotate (src : Source) : ∃ n, src.cycleAfter
      = [Source.internal, .link .a, .link .b, .link .c, .link .d].rotateLeft n
    ∧ src.cycleAfter.getLast? = some src := by
  match src with
  | .internal => exact ⟨1, rfl, rfl⟩
  | .link .a => exact ⟨2, rfl, rfl⟩
  | .link .b => exact ⟨3, rfl, rfl⟩
  | .link .c => exact ⟨4, rfl, rfl⟩
  | .link .d => exact ⟨0, rfl, rfl⟩

/-- Settles O3: the decision takes what `find?` finds first in the cycle. -/
theorem arbiterTakesTheFirstEligibleSource : Obligations.ArbiterTakesTheFirstEligibleSource := by
  intro s
  refine ⟨Source.cycleAfter_eq_rotate, State.eligible_internal_iff, fun l => State.eligible_link_iff,
    State.arbitrate_of_busy, State.arbitrate_of_none, fun before src after free cycle none chosen => ?_⟩
  have found : s.arbiter.cycleAfter.find? s.eligible = some src :=
    List.find?_eq_some_iff_append.2 ⟨chosen, before, after, cycle, by simpa using none⟩
  rw [State.arbitrate_of_find free found]
  refine ⟨fun item rest same list => ?_, fun l frame rest same queue => ?_⟩
  · subst same
    exact State.take_internal list
  · subst same
    exact State.take_link queue

/-- Settles O49: each law holds of the state after reset, whatever its cells. -/
theorem resetMeetsEveryLaw : Obligations.ResetMeetsEveryLaw := by
  refine ⟨linkLaw_reset, noticeLaw_iff.2 (NoticeBalance.deviceReset _ _ _), queueLaw_reset,
    EndedUnitLaw.deviceReset _ _ _, TokenLaw.reset, ClockLaw.reset, ?_, HolderLaw.reset⟩
  exact ⟨List.Pairwise.nil, nofun, List.Pairwise.nil, nofun⟩

/-! ### Tokens (R86, R89, R105) -/

theorem TokenUnit.issue_eq (u : TokenUnit) : u.issue =
    if u.state = .ready then
      (if u.serial.toNat < 16777215 then { u with serial := u.serial + 1 }
      else if u.epoch.toNat < 65535 then ⟨.unarmed, u.epoch, 0⟩
      else ⟨.exhausted, u.epoch, 0⟩)
    else u := by
  have serial : u.serial.toNat < 16777215 ↔ (u.serial != 16777215) = true := by
    rw [bne_iff_ne, ne_eq, ← BitVec.toNat_inj]
    have := u.serial.isLt
    change _ ↔ ¬ u.serial.toNat = 16777215
    omega
  have epoch : u.epoch.toNat < 65535 ↔ (u.epoch != 65535) = true := by
    rw [bne_iff_ne, ne_eq, ← BitVec.toNat_inj]
    have := u.epoch.isLt
    change _ ↔ ¬ u.epoch.toNat = 65535
    omega
  simp only [serial, epoch]
  unfold TokenUnit.issue
  cases state : u.state <;> rfl

theorem State.demandToken_of_armed (armed : s.tokens.state ≠ .unarmed) : s.demandToken = s := if_neg armed

theorem State.demandToken_of_unarmed (unarmed : s.tokens.state = .unarmed) :
    s.demandToken = { s with tokens := { s.tokens with state := .advancing } }.requestAdvance :=
  if_pos unarmed

theorem State.requestAdvance_of_idle (idle : s.store.controller = .idle) :
    s.requestAdvance = s.startAdvance := by
  simp only [State.requestAdvance, idle]

theorem State.requestAdvance_of_busy {k : PinSlot}
    (busy : s.store.controller = .busyPinWrite k ∨ s.store.controller = .busyPinVoid k) :
    s.requestAdvance = s.setPendingAdvance true := by
  rcases busy with busy | busy <;> simp only [State.requestAdvance, busy]

/-- An advance begins its step as it starts (R101, R107). -/
theorem State.startAdvance_of_lt (more : s.store.begun < 65535) :
    s.startAdvance = { s with
      store := { s.store with controller := .busyAdvance (s.store.begun + 1), begun := s.store.begun + 1 }
      cells := { s.cells with
        epochs := putEpochMarks (s.store.begun + 1) ⟨.partly, .blank⟩ s.cells.epochs } } := if_pos more

/-- With every step begun a failed item is appended in its place (R107). -/
theorem State.startAdvance_of_le (all : ¬ s.store.begun < 65535) :
    s.startAdvance = (s.setController .idle).appendItem (.advance (s.store.begun + 1) .failed) := if_neg all

/-- Settles O48, by the states of the unit and of the controller. -/
theorem tokensAreIssuedAndDemanded : Obligations.TokensAreIssuedAndDemanded := by
  refine ⟨TokenUnit.issue_eq, fun s => ⟨State.demandToken_of_armed, fun unarmed =>
    ⟨fun k busy => ?_, fun idle more => ?_⟩⟩⟩
  · exact (State.demandToken_of_unarmed unarmed).trans (State.requestAdvance_of_busy
      (s := { s with tokens := { s.tokens with state := .advancing } }) busy)
  · exact (State.demandToken_of_unarmed unarmed).trans ((State.requestAdvance_of_idle
      (s := { s with tokens := { s.tokens with state := .advancing } }) idle).trans
        (State.startAdvance_of_lt more))

/-! ### Notices (R134, R191) -/

theorem tagPlaces_length (set : List Entry) : (tagPlaces set).length = 8 := by
  have tags := length_flatMap_of_const (f := fun e : Entry => wordBytes e.tag) (n := 2) (fun _ => rfl)
    (set.take 4)
  simp only [tagPlaces, List.length_append, tags, List.length_take, List.length_replicate]
  omega

theorem Notice.fields_length_le (n : Notice) : n.fields.length ≤ 24 := by
  cases n <;> simp [Notice.fields, tagPlaces_length]

theorem Notice.bytes_length (n : Notice) : n.bytes.length = 24 := by
  have := n.fields_length_le
  simp only [Notice.bytes, List.length_append, filler_length]
  omega

/-- Settles O47, by whether there is room. -/
theorem noticesAreStoredWhereThereIsRoom : Obligations.NoticesAreStoredWhereThereIsRoom := by
  intro s l n
  refine ⟨n.bytes_length, ?_⟩
  dsimp only
  by_cases room : (s.noticeQueue l).stored.length + (s.noticeQueue l).reserved < 32
  · rw [State.postUnreserved, if_pos (NoticeQueue.hasRoom_iff.2 room), if_pos room]
  · have full : ¬ (s.noticeQueue l).hasRoom = true := fun h => room (NoticeQueue.hasRoom_iff.1 h)
    rw [State.postUnreserved, if_neg full, if_neg room, bump]
    split <;> rfl

/-! ### Grants (R50, R51) -/

/-- Settles O46: the removal of the wait touches nothing that the grant of the lease reads. -/
theorem aGrantTurnsTheWaitIntoALease : Obligations.AGrantTurnsTheWaitIntoALease := by
  intro s w x i live
  simp only [State.grantWait, State.grantLease_eq, State.removeWait_eq, live]
  rfl

/-! ### SET-TICK and CAPS (R68, R185) -/

/-- Settles O9, by whether the divider exceeds 1999. -/
theorem setTickWritesTheDividerRequested : Obligations.SetTickWritesTheDividerRequested := by
  intro s seq client d loaded taken
  have served : exec .setTick s = .next (s.serveRequest 0x44 ruleSetTick .toItsEnd) := rfl
  have read : wordAt (wordBytes d) 0 = d := wordAt_wordBytes d []
  rw [served, State.serveRequest_of_serving ruleSetTick taken loaded rfl fun _ => rfl]
  by_cases low : d.toNat ≤ 1999
  · have within : ¬ Config.maxDivider < d := by
      rw [BitVec.lt_def]
      exact Nat.not_lt.2 low
    simp only [ruleSetTick, read, within, low, if_true, if_false]
    rfl
  · have beyond : Config.maxDivider < d := by
      rw [BitVec.lt_def]
      exact Nat.not_le.1 low
    simp only [ruleSetTick, read, beyond, low, if_true, if_false]
    rfl

/-- Settles O27: CAPS reads the store's figures, and its bytes are those of the layout. -/
theorem capsReportsThePart : Obligations.CapsReportsThePart := by
  intro s l seq client loaded taken
  have served : exec .caps s = .next (s.serveRequest 0x33 ruleCaps .toItsEnd) := rfl
  refine ⟨?_, rfl⟩
  rw [served, State.serveRequest_of_serving ruleCaps taken loaded rfl nofun]
  rfl

end
end Sys2Proof.Machine
end

section
/-! PROOFS. The nonvolatile store: the load, the end of each operation, the advance held pending, and what a
reset leaves of an operation in progress (R104, R107 to R111). -/

namespace Sys2Proof.Machine

section
variable {s t u : State}

/-! ### The start-up load (R111) -/

theorem Cells.entry_eq_active_iff {c : Cells} {k : PinSlot} {old : SlotEntry} {d : PinData} :
    c.entry k old = ⟨.active, d, true⟩ ↔ c.active? k = some d := by
  constructor
  · intro shows
    cases active : c.active? k with
    | some e =>
      rw [Cells.entry_of_active active] at shows
      obtain ⟨-, rfl, -⟩ := SlotEntry.mk.inj shows
      rfl
    | none =>
      rw [Cells.entry_of_not_active active] at shows
      obtain ⟨state, -⟩ := SlotEntry.mk.inj shows
      split at state <;> nomatch state
  · intro active
    exact Cells.entry_of_active active old

/-- Settles O12: the load's item lists the slots that read ACTIVE, in slot order. -/
theorem startUpLoadSetsTheStore : Obligations.StartUpLoadSetsTheStore := by
  intro s running reading
  refine ⟨s.cells.activeSlots, ?_, ?_, fun k d => Cells.mem_activeSlots.trans Cells.entry_eq_active_iff.symm⟩
  · change execStartUpLoad s = _
    simp only [execStartUpLoad, running, reading, Bool.not_false, beq_self_eq_true, Bool.and_self, if_true,
      State.appendItem, Store.loaded]
  · exact List.pairwise_map.2 (s.cells.activeSlots_pairwise.imp And.left)

/-! ### The end of an operation (R104, R107 to R109) -/

theorem exec_advance_of_busy {n : Nat} (busy : s.store.controller = .busyAdvance n)
    (beginStep doneStep : StepResult) : exec (.advance beginStep doneStep) s
      = .next ((s.setEpochMarks n (advanceMarks beginStep doneStep)).appendItem
          (.advance n (bothSteps beginStep doneStep))).endOperation.arbitrate := by
  change execAdvance beginStep doneStep s = _
  simp only [execAdvance, busy]

theorem exec_pinWrite_of_busy {k : PinSlot} (busy : s.store.controller = .busyPinWrite k)
    (dataStep validStep voidStep : StepResult) : exec (.pinWrite dataStep validStep voidStep) s
      = .next (((s.setPinCells k (writeCells dataStep validStep voidStep s.store.slots[k].data
          s.cells.pins[k])).setSlotEntry k (s.store.slots[k].written dataStep validStep)).appendItem
            (.pinWrite k (bothSteps dataStep validStep))).endOperation.arbitrate := by
  change execPinWrite dataStep validStep voidStep s = _
  simp only [execPinWrite, busy]

theorem exec_pinVoid_of_busy {k : PinSlot} (busy : s.store.controller = .busyPinVoid k)
    (voidStep : StepResult) : exec (.pinVoid voidStep) s
      = .next (((s.setPinCells k { s.cells.pins[k] with void := stepMark voidStep }).setSlotEntry k
          { s.store.slots[k] with state := .void }).appendItem
            (.pinVoid k voidStep)).endOperation.arbitrate := by
  change execPinVoid voidStep s = _
  simp only [execPinVoid, busy]

theorem State.endOperation_of_none (none : s.store.pendingAdvance = false) :
    s.endOperation = s.setController .idle := by
  rw [State.endOperation, none]
  rfl

/-- The entry of a slot whose data are written: shown, and ACTIVE when the valid step is good (R102, R108). -/
theorem SlotEntry.written_good (x : SlotEntry) (r : StepResult) :
    x.written .good r = ⟨match r with | .good => .active | .failed => .void, x.data, true⟩ := by
  cases r <;> simp [SlotEntry.written, bothSteps]

theorem SlotEntry.written_failed (x : SlotEntry) (r : StepResult) :
    x.written .failed r = ⟨.void, x.data, x.shown⟩ := by
  simp [SlotEntry.written, bothSteps]

/-- Settles O14: an operation's end is its row's, with the controller set IDLE. -/
theorem storeOperationsAppendTheirItems : Obligations.StoreOperationsAppendTheirItems := by
  intro s none mark ends
  have marks (r : StepResult) : mark r = stepMark r := by cases r <;> rfl
  have ended {u : State} (item : WorkItem) (same : u.store.pendingAdvance = s.store.pendingAdvance) :
      (u.appendItem item).endOperation.arbitrate = ends u item := by
    rw [State.endOperation_of_none (s := u.appendItem item) (same.trans none)]
    rfl
  refine ⟨fun n r busy => ⟨?_, ?_⟩, fun k r v busy => ⟨?_, ?_, ?_⟩, fun k v busy => ?_,
    fun n m some => ⟨rfl, epochMarks_putEpochMarks_self some _,
      fun k other => epochMarks_putEpochMarks_of_ne some other _⟩⟩
  · rw [exec_advance_of_busy busy, marks]
    exact congrArg _ (ended _ rfl)
  · rw [exec_advance_of_busy busy]
    exact congrArg _ (ended _ rfl)
  · rw [exec_pinWrite_of_busy busy, SlotEntry.written_good]
    exact congrArg _ (ended _ rfl)
  · rw [exec_pinWrite_of_busy busy, SlotEntry.written_good, marks]
    exact congrArg _ (ended _ rfl)
  · rw [exec_pinWrite_of_busy busy, SlotEntry.written_failed, marks]
    exact congrArg _ (ended _ rfl)
  · rw [exec_pinVoid_of_busy busy, marks]
    exact congrArg _ (ended _ rfl)

/-- The end of an operation with an advance held pending starts the advance at once (R104, R107). -/
theorem State.endOperation_of_pending (pending : s.store.pendingAdvance = true) :
    s.endOperation =
      if s.store.begun < 65535 then
        { s with
          store := { s.store with
            controller := .busyAdvance (s.store.begun + 1)
            pendingAdvance := false
            begun := s.store.begun + 1 }
          cells := { s.cells with
            epochs := putEpochMarks (s.store.begun + 1) ⟨.partly, .blank⟩ s.cells.epochs } }
      else
        { s with
          workList := s.workList ++ [.advance (s.store.begun + 1) .failed]
          store := { s.store with controller := .idle, pendingAdvance := false } } := by
  rw [State.endOperation, if_pos pending]
  split
  case isTrue more => exact State.startAdvance_of_lt more
  case isFalse all => exact State.startAdvance_of_le all

/-- Settles O15: each operation's end starts the advance held pending. -/
theorem aPendingAdvanceStartsAtOnce : Obligations.APendingAdvanceStartsAtOnce := by
  intro s pending step mark ends
  have marks (r : StepResult) : mark r = stepMark r := by cases r <;> rfl
  have ended {u : State} (item : WorkItem) (flag : u.store.pendingAdvance = s.store.pendingAdvance)
      (begun : u.store.begun = s.store.begun) :
      (u.appendItem item).endOperation.arbitrate = ends u [item] := by
    rw [State.endOperation_of_pending (s := u.appendItem item) (flag.trans pending)]
    have same : (u.appendItem item).store.begun = s.store.begun := begun
    rw [same]
    simp only [ends]
    split <;> rfl
  refine ⟨fun k r v busy => ⟨?_, ?_, ?_⟩, fun k v busy => ?_, fun running idle => ?_⟩
  · rw [exec_pinWrite_of_busy busy, SlotEntry.written_good]
    exact congrArg _ (ended _ rfl rfl)
  · rw [exec_pinWrite_of_busy busy, SlotEntry.written_good, marks]
    exact congrArg _ (ended _ rfl rfl)
  · rw [exec_pinWrite_of_busy busy, SlotEntry.written_failed, marks]
    exact congrArg _ (ended _ rfl rfl)
  · rw [exec_pinVoid_of_busy busy, marks]
    exact congrArg _ (ended _ rfl rfl)
  · change execPendingAdvanceStart s = _
    simp only [execPendingAdvanceStart, running, idle, pending, Bool.not_false, beq_self_eq_true,
      Bool.and_self, if_true, State.endOperation_of_pending pending, ends, List.append_nil]
    split <;> rfl

/-! ### What a reset tears (R110) -/

theorem Cells.entry_void {c : Cells} {k : PinSlot} (inactive : c.pins[k].activeData? = none)
    (used : c.pins[k] ≠ ⟨.blank, .blank, .blank⟩) (old : SlotEntry) : (c.entry k old).state = .void := by
  have none : c.active? k = none := by
    rw [Cells.active?, inactive]
    rfl
  have notBlank : ¬ c.pins[k].readsBlank = true := fun blank => used (PinCells.readsBlank_iff.1 blank)
  rw [Cells.entry_of_not_active none, if_neg notBlank]

theorem PinCells.activeData?_eq_none {x : PinCells}
    (unfit : (∀ d, x.data ≠ .complete .asWritten d d.check) ∨ x.valid ≠ .complete ∨ x.void ≠ .blank) :
    x.activeData? = none := by
  rw [Option.eq_none_iff_forall_ne_some]
  intro d active
  obtain ⟨⟨data, -⟩, valid, void⟩ := PinCells.activeData?_eq_some_iff.1 active
  rcases unfit with torn | torn | torn
  · exact torn d data
  · exact torn valid
  · exact torn void

theorem tornMark_ne_blank (complete : Bool) : tornMark complete ≠ .blank := by cases complete <;> nofun

theorem State.tornCells_asTheyStand (s : State) : s.tornCells .asTheyStand = s.cells := by
  unfold State.tornCells
  cases s.store.controller with
  | busyPinWrite k => simp [tornWrite]
  | _ => rfl

/-- A torn advance has begun its step (R110). -/
theorem State.tornCells_of_advance {n : Nat} {c : Bool} {tear : Tear}
    (busy : s.store.controller = .busyAdvance n) (torn : tear = .advanceBegin c ∨ tear = .advanceDone c) :
    ∃ m : EpochMarks, m.beginMark ≠ .blank ∧ s.tornCells tear = (s.setEpochMarks n m).cells := by
  rcases torn with rfl | rfl
  · exact ⟨⟨tornMark c, .blank⟩, tornMark_ne_blank c, by simp only [State.tornCells, busy]; rfl⟩
  · exact ⟨⟨.complete, tornMark c⟩, nofun, by simp only [State.tornCells, busy]; rfl⟩

/-- A pin write that a reset tears leaves cells that are neither ACTIVE nor BLANK (R110, R112). -/
theorem tornWrite_void (d : PinData) (x : PinCells) (b c : Bool) {tear : Tear}
    (torn : tear = .writeData ∨ tear = .writeValid b ∨ tear = .writeVoid b c) :
    (tornWrite tear (writtenData d d.check) x).activeData? = none
      ∧ tornWrite tear (writtenData d d.check) x ≠ ⟨.blank, .blank, .blank⟩ := by
  rcases torn with rfl | rfl | rfl
  · exact ⟨PinCells.activeData?_eq_none (.inl nofun), nofun⟩
  · exact ⟨PinCells.activeData?_eq_none (.inr (.inl (by cases b <;> nofun))), nofun⟩
  · cases b with
    | true => exact ⟨PinCells.activeData?_eq_none (.inr (.inl nofun)), nofun⟩
    | false => exact ⟨PinCells.activeData?_eq_none (.inl nofun), nofun⟩

/-- Cells that a tear leaves neither ACTIVE nor BLANK read VOID, and no other slot's cells change. -/
theorem Cells.setPin_void (c : Cells) (k : PinSlot) {x : PinCells} (inactive : x.activeData? = none)
    (used : x ≠ ⟨.blank, .blank, .blank⟩) :
    (∀ old, (Cells.entry { c with pins := c.pins.set k x } k old).state = .void)
      ∧ ∀ j : PinSlot, j ≠ k → (c.pins.set k x)[j] = c.pins[j] := by
  have here : (c.pins.set k x)[k] = x := by simp
  refine ⟨fun old => Cells.entry_void (c := { c with pins := c.pins.set k x }) (here ▸ inactive)
    (here ▸ used) old, fun j other => ?_⟩
  have apart : (k : Nat) ≠ j := fun same => other (Fin.ext same.symm)
  simp [apart]

/-- Settles O5, by the operation in progress. -/
theorem tornOperationsReadAsUsed : Obligations.TornOperationsReadAsUsed := by
  intro tear s
  refine ⟨_, rfl, ?_, fun n c busy torn => ?_, fun k b c busy torn => ?_, fun k c busy torn => ?_⟩
  · rintro rfl
    exact s.tornCells_asTheyStand
  · obtain ⟨m, begun, cells⟩ := State.tornCells_of_advance busy torn
    change n ≤ (s.tornCells tear).begunCount ∧ s.cells.begunCount ≤ (s.tornCells tear).begunCount
      ∧ (s.tornCells tear).pins = s.cells.pins
      ∧ ∀ m, m ≠ n → epochMarks m (s.tornCells tear).epochs = epochMarks m s.cells.epochs
    rw [cells, s.begunCount_setEpochMarks n begun]
    exact ⟨le_max_right _ _, le_max_left _ _, rfl, fun k other =>
      epochMarks_putEpochMarks_of_ne (fun blank => begun (congrArg EpochMarks.beginMark blank)) other _⟩
  · obtain ⟨inactive, used⟩ := tornWrite_void s.store.slots[k].data s.cells.pins[k] b c torn
    obtain ⟨reads, others⟩ := s.cells.setPin_void k inactive used
    simp only [State.tornCells, busy]
    exact ⟨reads, trivial, others⟩
  · subst torn
    obtain ⟨reads, others⟩ := s.cells.setPin_void k
      (x := { s.cells.pins[k] with void := tornMark c })
      (PinCells.activeData?_eq_none (.inr (.inr (tornMark_ne_blank c))))
      (fun blank => tornMark_ne_blank c (PinCells.mk.inj blank).2.2)
    simp only [State.tornCells, busy]
    exact ⟨reads, trivial, others⟩

end
end Sys2Proof.Machine
end

section
/-! PROOFS. The run-out countdown's item, the state that a reset leaves, what finds nothing to act on, and the end
of a request (R74, R144, R155, R160). -/

namespace Sys2Proof.Machine

section
variable {s t u : State}

/-! ### A countdown that has run out (R74) -/

theorem State.appendIfRunOut_of_due {n : CountdownName} (out : (s.countdown n).runOut = true)
    (clear : (s.countdown n).mark = false) : s.appendIfRunOut n = s.appendClockItem n := by
  simp only [State.appendIfRunOut, out, clear, Bool.not_false, Bool.and_self, if_true]

theorem State.appendIfRunOut_of_not_due {n : CountdownName}
    (notDue : (s.countdown n).runOut = false ∨ (s.countdown n).mark = true) : s.appendIfRunOut n = s := by
  rcases notDue with running | marked
  · simp only [State.appendIfRunOut, running, Bool.false_and, Bool.false_eq_true, if_false]
  · simp only [State.appendIfRunOut, marked, Bool.not_true, Bool.and_false, Bool.false_eq_true, if_false]

/-- Settles O8, by whether the countdown is running at 0 and by its mark. -/
theorem aRunOutCountdownGetsItsItem : Obligations.ARunOutCountdownGetsItsItem := by
  intro s n c append
  refine ⟨fun running out clear => ?_, fun running notDue => ?_, fun out => ?_, fun inTime => ?_⟩
  · have clocked : exec (.countdownReachesZero n) s = .next (s.appendIfRunOut n).arbitrate := by
      change execCountdownReachesZero n s = _
      simp only [execCountdownReachesZero, running, Bool.false_eq_true, if_false]
    rw [clocked, State.appendIfRunOut_of_due out clear]
    rfl
  · change execCountdownReachesZero n s = _
    simp only [execCountdownReachesZero, running, Bool.false_eq_true, if_false,
      State.appendIfRunOut_of_not_due notDue]
  · have here := s.countdown_setCountdown_self n { c with mark := false }
    have due := State.appendIfRunOut_of_due (s := s.setCountdown n { c with mark := false }) (n := n)
      (by rw [here]; exact out) (by rw [here])
    change (s.setCountdown n { c with mark := false }).appendIfRunOut n = _
    rw [due, State.appendClockItem, here, State.setCountdown_setCountdown_self]
    rfl
  · have here := s.countdown_setCountdown_self n { c with mark := false }
    exact State.appendIfRunOut_of_not_due (s := s.setCountdown n { c with mark := false })
      (.inl (by rw [here]; exact inTime))

/-! ### Reset and its release (R144, R160) -/

/-- Settles O4: the reset values are those of the model's state after reset, and the two rows at the release
change the receivers alone. -/
theorem resetValuesAndTheReleaseOfReset : Obligations.ResetValuesAndTheReleaseOfReset := by
  refine ⟨fun tear s => ⟨_, rfl, rfl, rfl, rfl, fun l => ?_, rfl, rfl, rfl, rfl, rfl, rfl, rfl, fun i => ?_,
    fun w => ?_, rfl, rfl, fun n => ?_, rfl, rfl, rfl⟩, fun s => ⟨fun low held => ⟨_, rfl, ?_, ?_⟩,
    fun l running waits => ?_⟩⟩
  · cases l <;> exact ⟨rfl, rfl, rfl, rfl, rfl, rfl, rfl, rfl, rfl, rfl, rfl, rfl⟩
  · simp [State.lease, State.nextHandle, State.reset, stepGeneration]
  · simp [State.wait, State.reset, stepGeneration]
  · cases n <;> simp [State.countdown, State.reset, Countdown.reset]
  · rw [if_pos held]
  · intro l
    rw [if_pos held]
    cases l <;> rfl
  · change execSelectRiseAfterReset l s = _
    simp only [execSelectRiseAfterReset, running, waits, Bool.not_false, beq_self_eq_true, Bool.and_self,
      if_true]

/-! ### Which row serves a code (R153, R154) -/

/-- Each request form's row serves its own code. -/
theorem RequestRow.of_mem_requestForms :
    ∀ form ∈ requestForms, ∃ rule, RequestRow form.1 (· == form.2.1) rule := by
  simp only [requestForms, List.forall_mem_cons, List.not_mem_nil, false_imp_iff, implies_true, and_true]
  exact ⟨⟨_, .acquire⟩, ⟨_, .renew⟩, ⟨_, .release⟩, ⟨_, .downgrade⟩, ⟨_, .cancel⟩, ⟨_, .query⟩, ⟨_, .check⟩,
    ⟨_, .list⟩, ⟨_, .detach⟩, ⟨_, .linkConfig⟩, ⟨_, .status⟩, ⟨_, .caps⟩, ⟨_, .pinTable⟩, ⟨_, .pin⟩,
    ⟨_, .unpin⟩, ⟨_, .revoke⟩, ⟨_, .forceDetach⟩, ⟨_, .setTick⟩, ⟨_, .clear⟩⟩

theorem payloadLength?_isSome_of_mem_requestForms {form : (Extent → Instr) × Byte × Nat × Bool}
    (mem : form ∈ requestForms) : (payloadLength? form.2.1).isSome = true := by
  have row := (payloadLength?_and_adminCodes_of_mem_requestRows _ (List.mem_map_of_mem mem)).1
  rw [row]
  rfl

/-- UNKNOWN_REQUEST serves the codes that are none of the request forms'. -/
theorem payloadLength?_isNone_of_unknown {code : Byte} (unknown : ∀ form ∈ requestForms, form.2.1 ≠ code) :
    (payloadLength? code).isNone = true := by
  rw [Option.isNone_iff_eq_none]
  refine payloadLength?_eq_none fun row mem => ?_
  obtain ⟨form, known, rfl⟩ := List.mem_map.1 mem
  exact unknown form known

theorem RequestRow.of_servesCode {row : Extent → Instr} {code : Byte} (serves : servesCode row code) :
    ∃ ok rule, RequestRow row ok rule ∧ ok code = true := by
  rcases serves with ⟨form, mem, rfl, rfl⟩ | ⟨rfl, unknown⟩
  · obtain ⟨rule, here⟩ := RequestRow.of_mem_requestForms form mem
    exact ⟨_, rule, here, beq_self_eq_true _⟩
  · exact ⟨_, _, .unknownRequest, payloadLength?_isNone_of_unknown unknown⟩

section
variable {ok : Byte → Bool} {rule : RequestRule} {extent : Extent} {l : Link}

theorem State.serveCodes_of_request {f : Frame} (taken : s.inService = some (.request l f))
    (own : ok f.code = true) : s.serveCodes ok rule extent = s.answerRequest rule extent l f := by
  simp only [State.serveCodes, taken, own, if_true]

theorem State.serveCodes_of_answering {r : Response} (back : s.inService = some (.answering l r))
    (own : ok r.code = true) : s.serveCodes ok rule .toItsEnd = s.respond l r := by
  simp only [State.serveCodes, back, own, if_true]

theorem State.serveCodes_pause_of_answering {r : Response} (back : s.inService = some (.answering l r)) :
    s.serveCodes ok rule .toItsResponse = s := by
  simp only [State.serveCodes, back]

/-- A row finds nothing to serve in a request, or a held-back response, of another row's code. -/
theorem State.serveCodes_of_other (request : ∀ l f, s.inService = some (.request l f) → ok f.code = false)
    (answering : ∀ l r, s.holdsBack l r → ok r.code = false) : s.serveCodes ok rule extent = s := by
  unfold State.serveCodes
  split
  case h_1 l f taken => rw [if_neg (by simp [request l f taken])]
  case h_2 l r back =>
    cases extent with
    | toItsEnd => exact if_neg (by simp [answering l r back])
    | toItsResponse => rfl
  all_goals rfl

end

/-! ### The end of a request (R155, R156) -/

/-- Settles O60: what a row's rule does leaves the service and the queues, and what follows it is the response. -/
theorem aResponseEndsItsItem : Obligations.AResponseEndsItsItem := by
  intro s
  refine ⟨rfl, fun l code seq o p => rfl, fun row code serves => ?_⟩
  obtain ⟨ok, rule, here, own⟩ := RequestRow.of_servesCode serves
  refine ⟨fun l seq client p taken => ?_, fun l r back same => ?_⟩
  · have left := (here.works_judge (f := ⟨code, seq, client, p⟩) own s l).undisturbed
    refine ⟨(s.judge rule l ⟨code, seq, client, p⟩).1, ⟨code, seq,
      (s.judge rule l ⟨code, seq, client, p⟩).2.outcome,
      (s.judge rule l ⟨code, seq, client, p⟩).2.payload⟩, rfl, rfl, left.inService,
      fun k => (left.queues k).symm, ?_, ?_⟩
    · rw [here.exec_eq, State.serveCodes_of_request taken own]
      rfl
    · rw [here.exec_eq, State.serveCodes_of_request taken own]
      rfl
  · subst same
    rw [here.exec_eq, here.exec_eq, State.serveCodes_of_answering back own,
      State.serveCodes_pause_of_answering back]
    exact ⟨rfl, rfl⟩

end
end Sys2Proof.Machine
end

section
/-! PROOFS. What finds nothing to act on changes nothing (R66, R160). -/

namespace Sys2Proof.Machine

section
variable {s t u : State}

/-! ### Windows -/

theorem State.windowOf_of_unfit {l : Link} {w : Segment} {ok : Byte → Bool}
    (unfit : s.admitsSegment l w = false) : s.windowOf l w ok = s := by
  rw [State.windowOf, unfit]
  rfl

theorem State.admitsSegment_eq_false {l : Link} {w : Segment}
    (unfit : s.resetLow = true ∨ (w.falls = true ∧ (s.link l).receiver ≠ .idle)
      ∨ (w.falls = false ∧ ((s.link l).receiver = .idle ∨ (s.link l).receiver = .lowSinceReset))) :
    s.admitsSegment l w = false := by
  rcases unfit with low | ⟨falls, busy⟩ | ⟨falls, idle | waiting⟩
  · simp [State.admitsSegment, low]
  · simp [State.admitsSegment, falls, busy]
  · simp [State.admitsSegment, falls, idle, Receiver.inWindow]
  · simp [State.admitsSegment, falls, waiting, Receiver.inWindow]

theorem exec_window_of_unfit {l : Link} {w : Segment} (unfit : s.admitsSegment l w = false) :
    ∀ c ∈ [Instr.requestFrame l w, .fetchResponse l w, .fetchDiscardResponse l w, .fetchNotice l w,
      .fetchDiscardNotice l w], exec c s = .next s := by
  have same (ok : Byte → Bool) : (.next (s.windowOf l w ok) : Host.Outcome State Fault Refusal) = .next s :=
    congrArg _ (State.windowOf_of_unfit unfit)
  simp only [List.forall_mem_cons, List.not_mem_nil, false_imp_iff, implies_true, and_true]
  exact ⟨same _, same _, same _, same _, same _⟩

/-! ### Requests -/

/-- A request form's row finds nothing in another row's request (R154). -/
theorem exec_requestForm_of_other {form : (Extent → Instr) × Byte × Nat × Bool} (mem : form ∈ requestForms)
    (extent : Extent) (request : ∀ l seq client p, ¬ s.serving l form.2.1 seq client p)
    (answering : ∀ l r, s.holdsBack l r → r.code ≠ form.2.1) : exec (form.1 extent) s = .next s := by
  obtain ⟨rule, row⟩ := RequestRow.of_mem_requestForms form mem
  rw [row.exec_eq, State.serveCodes_of_other (fun l f taken => ?_) fun l r back => ?_]
  · refine beq_false_of_ne fun same => request l f.seq f.client f.payload ?_
    rw [State.serving, taken, ← same]
  · exact beq_false_of_ne (answering l r back)

/-- UNKNOWN_REQUEST finds nothing in a request of a known code (R153). -/
theorem exec_unknownRequest_of_known (extent : Extent)
    (request : ∀ l code seq client p, s.serving l code seq client p →
      ∃ form ∈ requestForms, form.2.1 = code)
    (answering : ∀ l r, s.holdsBack l r → ∃ form ∈ requestForms, form.2.1 = r.code) :
    exec (.unknownRequest extent) s = .next s := by
  have known {code : Byte} (form : ∃ form ∈ requestForms, form.2.1 = code) :
      (payloadLength? code).isNone = false := by
    obtain ⟨form, mem, rfl⟩ := form
    simpa using payloadLength?_isSome_of_mem_requestForms mem
  rw [RequestRow.unknownRequest.exec_eq extent s, State.serveCodes_of_other (fun l f taken => ?_)
    fun l r back => ?_]
  · exact known (request l f.code f.seq f.client f.payload taken)
  · exact known (answering l r back)

/-! ### Items and store operations -/

theorem exec_expiry_of_none (none : ∀ i g, ¬ s.servingItem (.expiry i g)) : exec .expiry s = .next s := by
  change execExpiry s = _
  unfold execExpiry
  split
  case h_1 i g taken => exact absurd taken (none i g)
  case h_2 => rfl

theorem exec_timeout_of_none (none : ∀ w g, ¬ s.servingItem (.timeout w g)) : exec .timeout s = .next s := by
  change execTimeout s = _
  unfold execTimeout
  split
  case h_1 w g taken => exact absurd taken (none w g)
  case h_2 => rfl

theorem exec_loadCompletion_of_none (none : ∀ n active, ¬ s.servingItem (.load n active)) :
    exec .loadCompletion s = .next s := by
  change execLoadCompletion s = _
  unfold execLoadCompletion
  split
  case h_1 n active taken => exact absurd taken (none n active)
  case h_2 => rfl

theorem exec_advanceCompletion_of_none (none : ∀ n r, ¬ s.servingItem (.advance n r)) :
    exec .advanceCompletion s = .next s := by
  change execAdvanceCompletion s = _
  unfold execAdvanceCompletion
  split
  case h_1 n r taken => exact absurd taken (none n r)
  case h_2 => rfl

theorem exec_pinWriteCompletion_of_none (none : ∀ k r, ¬ s.servingItem (.pinWrite k r)) :
    exec .pinWriteCompletion s = .next s := by
  change execPinWriteCompletion s = _
  unfold execPinWriteCompletion
  split
  case h_1 k r taken => exact absurd taken (none k r)
  case h_2 => rfl

theorem exec_pinVoidCompletion_of_none (none : ∀ k r, ¬ s.servingItem (.pinVoid k r)) :
    exec .pinVoidCompletion s = .next s := by
  change execPinVoidCompletion s = _
  unfold execPinVoidCompletion
  split
  case h_1 k r taken => exact absurd taken (none k r)
  case h_2 => rfl

theorem exec_advance_of_none (x y : StepResult) (none : ∀ n, s.store.controller ≠ .busyAdvance n) :
    exec (.advance x y) s = .next s := by
  change execAdvance x y s = _
  unfold execAdvance
  split
  case h_1 n busy => exact absurd busy (none n)
  all_goals rfl

theorem exec_pinWrite_of_none (x y z : StepResult) (none : ∀ k, s.store.controller ≠ .busyPinWrite k) :
    exec (.pinWrite x y z) s = .next s := by
  change execPinWrite x y z s = _
  unfold execPinWrite
  split
  case h_1 k busy => exact absurd busy (none k)
  all_goals rfl

theorem exec_pinVoid_of_none (x : StepResult) (none : ∀ k, s.store.controller ≠ .busyPinVoid k) :
    exec (.pinVoid x) s = .next s := by
  change execPinVoid x s = _
  unfold execPinVoid
  split
  case h_1 k busy => exact absurd busy (none k)
  all_goals rfl

theorem exec_selectRiseAfterReset_of_none (l : Link)
    (none : s.resetLow = true ∨ (s.link l).receiver ≠ .lowSinceReset) :
    exec (.selectRiseAfterReset l) s = .next s := by
  change execSelectRiseAfterReset l s = _
  rcases none with low | other
  · simp [execSelectRiseAfterReset, low]
  · simp [execSelectRiseAfterReset, other]

theorem exec_startUpLoad_of_none (none : s.resetLow = true ∨ s.store.controller ≠ .loading) :
    exec .startUpLoad s = .next s := by
  change execStartUpLoad s = _
  rcases none with low | other
  · simp [execStartUpLoad, low]
  · simp [execStartUpLoad, other]

theorem exec_pendingAdvanceStart_of_none
    (none : s.resetLow = true ∨ s.store.controller ≠ .idle ∨ s.store.pendingAdvance = false) :
    exec .pendingAdvanceStart s = .next s := by
  change execPendingAdvanceStart s = _
  rcases none with low | busy | clear
  · simp [execPendingAdvanceStart, low]
  · simp [execPendingAdvanceStart, busy]
  · simp [execPendingAdvanceStart, clear]

/-- Settles O6, row by row. -/
theorem whatFindsNothingChangesNothing : Obligations.WhatFindsNothingChangesNothing := by
  intro s
  refine ⟨fun l w unfit => exec_window_of_unfit (State.admitsSegment_eq_false unfit), fun l b unfit => ?_,
    fun low high => ?_, exec_selectRiseAfterReset_of_none, fun low => ⟨?_, fun n => ?_⟩,
    exec_startUpLoad_of_none, exec_pendingAdvanceStart_of_none,
    fun form mem extent => exec_requestForm_of_other mem extent, exec_unknownRequest_of_known,
    exec_expiry_of_none, exec_timeout_of_none, exec_loadCompletion_of_none,
    exec_advanceCompletion_of_none, exec_pinWriteCompletion_of_none, exec_pinVoidCompletion_of_none,
    exec_advance_of_none, exec_pinWrite_of_none, exec_pinVoid_of_none⟩
  · exact congrArg _ (State.windowOf_of_unfit (State.admitsSegment_eq_false (w := .whole [b])
      (unfit.imp_right fun busy => .inl ⟨rfl, busy⟩)))
  · change execResetRelease low s = _
    simp only [execResetRelease, high, Bool.false_eq_true, if_false]
  · change execTick s = _
    simp only [execTick, low, if_true]
  · change execCountdownReachesZero n s = _
    simp only [execCountdownReachesZero, low, if_true]

end
end Sys2Proof.Machine
end

section
/-! PROOFS. The fetches: a window is a receiver and what it has shifted out, beside the queue that the fetch
discards from, presents and marks (R137, R138, R141, R161, R166 to R169). -/

namespace Sys2Proof.Machine

section
variable {s t u : State}

/-! ### A window beside the queues -/

/-- The link with its receiver and what it has shifted out replaced. -/
def State.withWindow (s : State) (l : Link) (r : Receiver) (out : List Byte) : State :=
  s.setLink l { s.link l with receiver := r, dout := out }

section
variable (s) (l : Link) (r r' : Receiver) (out out' : List Byte)

@[simp] theorem State.link_withWindow :
    (s.withWindow l r out).link l = { s.link l with receiver := r, dout := out } :=
  s.link_setLink_self l _

@[simp] theorem State.noticeQueue_withWindow (k : Link) :
    (s.withWindow l r out).noticeQueue k = s.noticeQueue k := rfl

@[simp] theorem State.withWindow_withWindow :
    (s.withWindow l r out).withWindow l r' out' = s.withWindow l r' out' := by
  simp [State.withWindow]

theorem State.setNotices_withWindow (q : NoticeQueue) :
    (s.withWindow l r out).setNotices l q = (s.setNotices l q).withWindow l r out := rfl

/-- A change of the rest of the link goes through. -/
theorem State.withWindow_setLink (x : LinkState) :
    (s.setLink l x).withWindow l r out = s.setLink l { x with receiver := r, dout := out } := by
  simp [State.withWindow]

theorem State.fetchDiscard_withWindow (code : Byte) :
    (s.withWindow l r out).fetchDiscard l code = (s.fetchDiscard l code).withWindow l r out := by
  have notices : (s.withWindow l r out).discardNotice l = (s.discardNotice l).withWindow l r out := by
    unfold State.discardNotice
    rw [State.noticeQueue_withWindow]
    split <;> rfl
  have responses : (s.withWindow l r out).discardResponse l
      = (s.discardResponse l).withWindow l r out := by
    unfold State.discardResponse
    rw [State.link_withWindow]
    dsimp only
    split
    · simp [State.withWindow]
    · rfl
  unfold State.fetchDiscard
  rw [notices, responses]
  split
  · split <;> rfl
  · rfl

theorem State.fetchHead_withWindow (code : Byte) :
    (s.withWindow l r out).fetchHead l code = s.fetchHead l code := by
  simp only [State.fetchHead, State.link_withWindow, State.noticeQueue_withWindow]

theorem State.markHead_withWindow (code : Byte) :
    (s.withWindow l r out).markHead l code = (s.markHead l code).withWindow l r out := by
  unfold State.markHead
  split
  · rfl
  · simp [State.withWindow]

/-- A presentation goes on; its last byte marks the head (R168, R169). -/
theorem State.shiftPresentation_withWindow (code : Byte) (stream : List Byte) (shifted : Nat)
    (isHead : Bool) (n : Nat) :
    (s.withWindow l r out).shiftPresentation l code stream shifted isHead n =
      (if isHead && decide (shifted < stream.length) && decide (stream.length ≤ shifted + n) then
        s.markHead l code else s).withWindow l (.presenting code stream (shifted + n) isHead)
          (out ++ presentationSlice stream shifted n) := by
  have shifts : (s.withWindow l r out).setLink l { (s.withWindow l r out).link l with
        receiver := .presenting code stream (shifted + n) isHead
        dout := ((s.withWindow l r out).link l).dout ++ presentationSlice stream shifted n }
      = s.withWindow l (.presenting code stream (shifted + n) isHead)
        (out ++ presentationSlice stream shifted n) := by
    simp [State.withWindow]
  unfold State.shiftPresentation
  rw [shifts]
  simp only [State.markHead_withWindow]
  split <;> rfl

theorem State.selectRises_presenting (code : Byte) (stream : List Byte) (shifted : Nat) (isHead : Bool) :
    (s.withWindow l (.presenting code stream shifted isHead) out).selectRises l
      = s.withWindow l .idle out := by
  simp [State.selectRises, State.setReceiver, State.withWindow]

end

/-! ### A fetch given whole (R166) -/

theorem presentation_length_pos (record : Option (List Byte)) : 0 < (presentation record).length :=
  Nat.zero_lt_succ _

/-- A fetch with a good complement, given whole: the discard, and then the presentation of the head, which
is marked when its last byte has been shifted out. -/
theorem State.windowOf_fetch {l : Link} {code : Byte} (more : List Byte) {ok : Byte → Bool}
    (running : s.resetLow = false) (idle : (s.link l).receiver = .idle) (fetch : code ∈ fetchCodes)
    (meets : ok code = true) :
    let u := s.fetchDiscard l code
    let record := u.fetchHead l code
    s.windowOf l (.whole (code :: ~~~code :: more)) ok =
      ((if record.isSome && decide ((presentation record).length ≤ more.length) then
          u.markHead l code else u).withWindow l .idle
        ([s.statusByte l, 0xFF] ++ presentationSlice (presentation record) 0 more.length)).arbitrate := by
  intro u record
  have begins (r : Receiver) (out : List Byte) :
      (((s.withWindow l r out).beginPresentation l code more.length).selectRises l)
        = (if record.isSome && decide ((presentation record).length ≤ more.length) then
          u.markHead l code else u).withWindow l .idle
            (out ++ presentationSlice (presentation record) 0 more.length) := by
    simp only [State.beginPresentation, State.fetchDiscard_withWindow, State.fetchHead_withWindow,
      State.shiftPresentation_withWindow, State.selectRises_presenting, presentation_length_pos,
      decide_true, Bool.and_true, Nat.zero_add]
    rfl
  have collects : (s.selectFalls l).collect l (s.statusByte l) [] (code :: ~~~code :: more)
      = (s.withWindow l (.collecting (s.statusByte l) (code :: ~~~code :: more))
          (leadOut (s.statusByte l) 2)).beginPresentation l code more.length := by
    simp only [State.collect, List.nil_append, List.contains_iff_mem, fetch, if_true]
    simp [State.selectFalls, State.withWindow]
  rw [State.windowOf_whole running idle (by simpa using meets), collects, begins]
  rfl

/-- The bytes of a presentation from its beginning, and then filler (R168). -/
theorem presentationSlice_zero (stream : List Byte) (n : Nat) :
    presentationSlice stream 0 n = (stream ++ List.replicate n 0xFF).take n := by
  simp [presentationSlice]

theorem isSome_map_head? {α β : Type} [DecidableEq α] (f : α → β) (l : List α) :
    (l.head?.map f).isSome = decide (l ≠ []) := by
  cases l <;> simp

section
variable {l : Link} {code : Byte}

/-- The discard of a response fetch (R167), where no mark stands without a head. -/
theorem State.fetchDiscard_response (own : namesNotices code = false)
    (marked : (s.link l).presented = true → (s.link l).responses ≠ []) :
    s.fetchDiscard l code = s.setLink l { s.link l with
      responses := if discardsFirst code && (s.link l).presented then (s.link l).responses.tail
        else (s.link l).responses
      presented := (s.link l).presented && !discardsFirst code } := by
  have same : s = s.setLink l { s.link l with presented := (s.link l).presented } :=
    (s.setLink_link_self l).symm
  simp only [State.fetchDiscard, own, State.discardResponse, Bool.false_eq_true, if_false]
  cases discardsFirst code with
  | false => simpa using same
  | true =>
    cases mark : (s.link l).presented with
    | false =>
      rw [mark] at same
      simpa using same
    | true => simp [marked mark]

/-- The discard of a notice fetch (R138), where no mark stands without a head. -/
theorem State.fetchDiscard_notice (own : namesNotices code = true)
    (marked : (s.noticeQueue l).presented = true → (s.noticeQueue l).stored ≠ []) :
    s.fetchDiscard l code = s.setNotices l { s.noticeQueue l with
      stored := if discardsFirst code && (s.noticeQueue l).presented then (s.noticeQueue l).stored.tail
        else (s.noticeQueue l).stored
      presented := (s.noticeQueue l).presented && !discardsFirst code } := by
  have same : s = s.setNotices l { s.noticeQueue l with presented := (s.noticeQueue l).presented } := by
    exact (s.setNotices_noticeQueue_self l).symm
  simp only [State.fetchDiscard, own, State.discardNotice, if_true]
  cases discardsFirst code with
  | false => simpa using same
  | true =>
    cases mark : (s.noticeQueue l).presented with
    | false =>
      rw [mark] at same
      simpa using same
    | true => simp [marked mark]

/-- The end of a response window: the mark is set where the presentation was completed. -/
theorem State.marked_response (own : namesNotices code = false) (s : State) (x : LinkState)
    (out : List Byte) (completed : Bool) :
    (if completed then (s.setLink l x).markHead l code else s.setLink l x).withWindow l .idle out
      = s.setLink l { x with
          receiver := .idle, dout := out, presented := completed || x.presented } := by
  cases completed <;> simp [State.markHead, own, State.withWindow]

/-- The end of a notice window. -/
theorem State.marked_notice (own : namesNotices code = true) (s : State) (q : NoticeQueue)
    (out : List Byte) (completed : Bool) :
    (if completed then (s.setNotices l q).markHead l code else s.setNotices l q).withWindow l .idle out
      = (s.withWindow l .idle out).setNotices l { q with presented := completed || q.presented } := by
  cases completed <;> simp [State.markHead, own, State.setNotices_withWindow]

/-- A response fetch given whole. -/
theorem State.windowOf_fetchResponse (more : List Byte) (running : s.resetLow = false)
    (idle : (s.link l).receiver = .idle)
    (marked : (s.link l).presented = true → (s.link l).responses ≠ [])
    (fetch : code ∈ fetchCodes) (own : namesNotices code = false) :
    let kept := if discardsFirst code && (s.link l).presented then (s.link l).responses.tail
      else (s.link l).responses
    let stream := presentation (kept.head?.map Response.bytes)
    s.windowOf l (.whole (code :: ~~~code :: more)) (· == code) = (s.setLink l { s.link l with
      dout := [s.statusByte l, 0xFF] ++ (stream ++ List.replicate more.length 0xFF).take more.length
      responses := kept
      presented := decide (kept ≠ [] ∧ stream.length ≤ more.length)
        || ((s.link l).presented && !discardsFirst code) }).arbitrate := by
  intro kept stream
  have discarded := State.fetchDiscard_response own marked
  have head : (s.fetchDiscard l code).fetchHead l code = kept.head?.map Response.bytes := by
    simp [discarded, State.fetchHead, own, kept]
  have window := State.windowOf_fetch (ok := (· == code)) more running idle fetch (beq_self_eq_true code)
  dsimp only at window
  rw [window, head, presentationSlice_zero, discarded, isSome_map_head?, ← Bool.decide_and,
    State.marked_response own]
  simp only [idle, kept, stream]

/-- A notice fetch given whole. -/
theorem State.windowOf_fetchNotice (more : List Byte) (running : s.resetLow = false)
    (idle : (s.link l).receiver = .idle)
    (marked : (s.noticeQueue l).presented = true → (s.noticeQueue l).stored ≠ [])
    (fetch : code ∈ fetchCodes) (own : namesNotices code = true) :
    let q := s.noticeQueue l
    let kept := if discardsFirst code && q.presented then q.stored.tail else q.stored
    let stream := presentation (kept.head?.map Notice.bytes)
    s.windowOf l (.whole (code :: ~~~code :: more)) (· == code) = ((s.setLink l { s.link l with
      dout := [s.statusByte l, 0xFF]
        ++ (stream ++ List.replicate more.length 0xFF).take more.length }).setNotices l
      { q with
        stored := kept
        presented := decide (kept ≠ [] ∧ stream.length ≤ more.length)
          || (q.presented && !discardsFirst code) }).arbitrate := by
  intro q kept stream
  have discarded := State.fetchDiscard_notice own marked
  have head : (s.fetchDiscard l code).fetchHead l code = kept.head?.map Notice.bytes := by
    simp [discarded, State.fetchHead, own, kept, q]
  have window := State.windowOf_fetch (ok := (· == code)) more running idle fetch (beq_self_eq_true code)
  dsimp only at window
  rw [window, head, presentationSlice_zero, discarded, isSome_map_head?, ← Bool.decide_and,
    State.marked_notice own]
  simp only [State.withWindow, idle, kept, stream, q]

end

/-- Settles O21: the discard removes a marked head, and the presentation marks the head that is left. -/
theorem responseFetchesPresentTheHead : Obligations.ResponseFetchesPresentTheHead := by
  intro s l discard more running idle marked kept stream row
  cases discard with
  | true =>
    exact congrArg _ (State.windowOf_fetchResponse (code := 0xA1) more running idle marked (by decide) rfl)
  | false =>
    exact congrArg _ (State.windowOf_fetchResponse (code := 0xA0) more running idle marked (by decide) rfl)

/-- Settles O22, as O21. -/
theorem noticeFetchesPresentTheHead : Obligations.NoticeFetchesPresentTheHead := by
  intro s l discard more running idle marked q kept stream row
  cases discard with
  | true =>
    exact congrArg _ (State.windowOf_fetchNotice (code := 0xA9) more running idle marked (by decide) rfl)
  | false =>
    exact congrArg _ (State.windowOf_fetchNotice (code := 0xA8) more running idle marked (by decide) rfl)

/-! ### A wrong complement (R166) -/

/-- A fetch whose complement differs, given whole. -/
theorem State.windowOf_wrongComplement {l : Link} {code second : Byte} (more : List Byte) {ok : Byte → Bool}
    (running : s.resetLow = false) (idle : (s.link l).receiver = .idle) (fetch : code ∈ fetchCodes)
    (meets : ok code = true) (wrong : second ≠ ~~~code) :
    s.windowOf l (.whole (code :: second :: more)) ok = (s.setLink l { s.link l with
      dout := s.statusByte l :: List.replicate (more.length + 1) 0xFF
      frameCount := bump (s.link l).frameCount
      errorFlag := true }).arbitrate := by
  have collects : (s.selectFalls l).collect l (s.statusByte l) [] (code :: second :: more)
      = s.setLink l { s.link l with
          receiver := .ignoring code
          dout := s.statusByte l :: List.replicate (more.length + 1) 0xFF
          frameCount := bump (s.link l).frameCount
          errorFlag := true } := by
    simp only [State.collect, List.nil_append, List.contains_iff_mem, fetch, if_true, wrong, if_false]
    simp [State.selectFalls, LinkState.frameError, leadOut]
  rw [State.windowOf_whole running idle (by simpa using meets), collects]
  simp [State.selectRises, State.setReceiver, idle]

/-- Settles O23, for each of the four codes. -/
theorem aWrongComplementIsAFrameError : Obligations.AWrongComplementIsAFrameError := by
  intro s l second more running idle out
  have row (code : Byte) (fetch : code ∈ fetchCodes) (wrong : second ≠ ~~~code) :
      s.windowOf l (.whole (code :: second :: more)) (· == code) = out :=
    State.windowOf_wrongComplement more running idle fetch (beq_self_eq_true code) wrong
  exact ⟨fun wrong => congrArg _ (row 0xA0 (by decide) wrong),
    fun wrong => congrArg _ (row 0xA1 (by decide) wrong),
    fun wrong => congrArg _ (row 0xA8 (by decide) wrong),
    fun wrong => congrArg _ (row 0xA9 (by decide) wrong)⟩

end
end Sys2Proof.Machine
end

section
/-! PROOFS. A presentation that goes on, and what a link shows: the status byte, attention and the data output
(R141, R159 to R161, R169, R171, R172). -/

namespace Sys2Proof.Machine

section
variable {s t u : State} {l : Link}

/-! ### A presentation that goes on (R141, R169) -/

@[simp] theorem State.withWindow_self (s : State) (l : Link) :
    s.withWindow l (s.link l).receiver (s.link l).dout = s := s.setLink_link_self l

theorem State.noticeQueue_arbitrate (s : State) (l : Link) : s.arbitrate.noticeQueue l = s.noticeQueue l := by
  rw [State.arbitrate_eq]
  rfl

theorem State.receiver_arbitrate (s : State) (l : Link) :
    (s.arbitrate.link l).receiver = (s.link l).receiver := by
  obtain ⟨fifo, same⟩ := s.link_arbitrate l
  rw [same]

theorem State.dout_arbitrate (s : State) (l : Link) : (s.arbitrate.link l).dout = (s.link l).dout := by
  obtain ⟨fifo, same⟩ := s.link_arbitrate l
  rw [same]

theorem State.noticeQueue_markHead {code : Byte} (own : namesNotices code = true) (s : State) (l : Link) :
    (s.markHead l code).noticeQueue l = { s.noticeQueue l with presented := true } := by
  simp only [State.markHead, own, if_true, State.noticeQueue_setNotices_self]

/-- The end of a presentation, in a later stretch of its window: its bytes come out, and the head is marked
where the record that was taken is still the head (R168, R169). -/
theorem State.windowOf_presenting {code : Byte} {stream bytes : List Byte} {shifted : Nat} {isHead : Bool}
    {ok : Byte → Bool} (rises : Bool) (running : s.resetLow = false)
    (presents : (s.link l).receiver = .presenting code stream shifted isHead) (meets : ok code = true)
    (begun : shifted < stream.length) (ends : stream.length ≤ shifted + bytes.length) :
    ∃ r, s.windowOf l ⟨false, bytes, rises⟩ ok =
      ((if isHead then s.markHead l code else s).withWindow l r
        ((s.link l).dout ++ presentationSlice stream shifted bytes.length)).arbitrate := by
  have fits : s.admitsSegment l ⟨false, bytes, rises⟩ = true := by
    simp [State.admitsSegment, running, presents, Receiver.inWindow]
  have named : (s.link l).receiver.windowCode ⟨false, bytes, rises⟩ = some code := by rw [presents]; rfl
  have receives : s.receiveBytes l bytes =
      (if isHead then s.markHead l code else s).withWindow l
        (.presenting code stream (shifted + bytes.length) isHead)
        ((s.link l).dout ++ presentationSlice stream shifted bytes.length) := by
    have shift := s.shiftPresentation_withWindow l (s.link l).receiver (s.link l).dout code stream shifted
      isHead bytes.length
    rw [State.withWindow_self] at shift
    simp only [State.receiveBytes, presents, shift, begun, ends, decide_true, Bool.and_true]
  simp only [State.windowOf, fits, named, Option.all_some, meets, Bool.and_self, if_true, State.runSegment,
    Bool.false_eq_true, if_false, receives]
  cases rises with
  | false => exact ⟨_, rfl⟩
  | true => exact ⟨_, by rw [if_pos rfl, State.selectRises_presenting]⟩

/-- Settles O24: an emptying makes the presentation one of no head. -/
theorem anEmptyingLeavesNoMark : Obligations.AnEmptyingLeavesNoMark := by
  intro s l code stream bytes shifted rises running presents begun ends out row
  have emptied : ((s.emptyNotices l).link l) = { s.link l with
      receiver := (s.link l).receiver.loseHead } := State.link_setLink_self _ _ _
  have window {c : Instr} (own : namesNotices code = true)
      (headless : (code == 0xA8 || code == 0xA9) = true)
      (served : ∀ u, exec c u = .next (u.windowOf l ⟨false, bytes, rises⟩ (· == code))) : row c := by
    have lost : ((s.emptyNotices l).link l).receiver = .presenting code stream shifted false := by
      rw [emptied]
      simp only [presents, Receiver.loseHead, headless, Bool.not_true, Bool.and_false]
    obtain ⟨r, marks⟩ := State.windowOf_presenting (ok := (· == code)) rises running presents
      (beq_self_eq_true code) begun ends
    obtain ⟨r', leaves⟩ := State.windowOf_presenting (s := s.emptyNotices l) (ok := (· == code)) rises running
      lost (beq_self_eq_true code) begun ends
    refine ⟨⟨_, (served s).trans (congrArg _ marks), ?_, ?_⟩,
      ⟨_, (served (s.emptyNotices l)).trans (congrArg _ leaves), ?_, ?_⟩⟩
    · rw [State.dout_arbitrate, State.link_withWindow]
      rfl
    · rw [State.noticeQueue_arbitrate, State.noticeQueue_withWindow, if_pos rfl,
        State.noticeQueue_markHead own]
    · rw [State.dout_arbitrate, State.link_withWindow, emptied]
      rfl
    · rw [State.noticeQueue_arbitrate, State.noticeQueue_withWindow]
      exact State.noticeQueue_setNotices_self _ _ _
  refine ⟨?_, ?_⟩
  · rintro rfl
    exact window rfl rfl fun _ => rfl
  · rintro rfl
    exact window rfl rfl fun _ => rfl

/-! ### The status byte (R161, R171) -/

/-- Eight indicators, the first in bit 7 (R191). -/
theorem getElem_ofBool_append (b₇ b₆ b₅ b₄ b₃ b₂ b₁ b₀ : Bool) :
    let x : Byte := BitVec.ofBool b₇ ++ BitVec.ofBool b₆ ++ BitVec.ofBool b₅ ++ BitVec.ofBool b₄
      ++ BitVec.ofBool b₃ ++ BitVec.ofBool b₂ ++ BitVec.ofBool b₁ ++ BitVec.ofBool b₀
    x[7] = b₇ ∧ x[6] = b₆ ∧ x[5] = b₅ ∧ x[4] = b₄ ∧ x[3] = b₃ ∧ x[2] = b₂ ∧ x[1] = b₁ ∧ x[0] = b₀ := by
  revert b₇ b₆ b₅ b₄ b₃ b₂ b₁ b₀
  decide

theorem State.getElem_statusByte (s : State) (l : Link) :
    ((s.statusByte l)[7] = true ↔ s.loading = false)
    ∧ ((s.statusByte l)[6] = true ↔ (s.link l).responses ≠ [])
    ∧ ((s.statusByte l)[5] = true ↔ (s.noticeQueue l).stored ≠ [])
    ∧ ((s.statusByte l)[4] = true ↔ (s.link l).errorFlag = true)
    ∧ ((s.statusByte l)[3] = true ↔ (s.link l).overrunCount ≠ 0)
    ∧ ((s.statusByte l)[2] = true ↔ s.tokens.state ≠ .ready)
    ∧ ((s.statusByte l)[1] = true ↔ s.store.controller ≠ .idle)
    ∧ ((s.statusByte l)[0] = true ↔ l = .a) := by
  have busy : s.store.controller.busy = true ↔ s.store.controller ≠ .idle := by
    cases s.store.controller <;> simp [Controller.busy]
  obtain ⟨ready, responses, notices, errors, overrun, token, store, link⟩ := getElem_ofBool_append
    (!s.loading) (!(s.link l).responses.isEmpty) (!(s.noticeQueue l).stored.isEmpty) (s.link l).errorFlag
    ((s.link l).overrunCount != 0) (s.tokens.state != .ready) s.store.controller.busy (l == .a)
  unfold State.statusByte
  rw [ready, responses, notices, errors, overrun, token, store, link, busy]
  simp

theorem LinkLaw.arbitrate_eq (h : LinkLaw s) : s.arbitrate = s := by
  cases service : s.inService with
  | none => exact State.arbitrate_of_none (h.settled service)
  | some v => exact State.arbitrate_of_busy (by rw [service]; rfl)

/-- A window of one byte shifts out the status byte, and nothing else happens (R161). -/
theorem exec_statusRead (b : Byte) (running : s.resetLow = false) (idle : (s.link l).receiver = .idle)
    (law : LinkLaw s) :
    exec (.statusRead l b) s = .next (s.setLink l { s.link l with dout := [s.statusByte l] }) := by
  have read : ((s.selectFalls l).collect l (s.statusByte l) [] [b]).selectRises l
      = s.setLink l { s.link l with dout := [s.statusByte l] } := by
    simp [State.collect, State.selectFalls, State.selectRises, State.setReceiver, leadOut, idle]
  have kept : LinkLaw (s.setLink l { s.link l with dout := [s.statusByte l] }) :=
    law.undisturbed (s.quiet_setLink l (x := { s.link l with dout := [s.statusByte l] }) rfl
      rfl).toUndisturbed rfl
  change Host.Outcome.next (s.windowOf l (.whole [b]) fun _ => true) = _
  rw [State.windowOf_whole running idle rfl, read, kept.arbitrate_eq]

/-! ### Attention and the data output (R159, R160, R172) -/

theorem State.attention_iff : s.attention l = true ↔ s.resetLow = false ∧
    ((1 ≤ (s.noticeQueue l).stored.length ∧ (s.link l).settings.noticeAttention = true)
      ∨ ((s.link l).settings.responseLevel ≤ (s.link l).responses.length
        ∧ (s.link l).settings.responseAttention = true)
      ∨ ((s.link l).errorFlag = true ∧ (s.link l).settings.errorAttention = true)) := by
  have some : 1 ≤ (s.noticeQueue l).stored.length ↔ (s.noticeQueue l).stored.isEmpty = false := by
    rw [List.isEmpty_eq_false_iff, Nat.one_le_iff_ne_zero, ne_eq, List.length_eq_zero_iff]
  simp only [State.attention, Bool.and_eq_true, Bool.or_eq_true, Bool.not_eq_true', decide_eq_true_eq, some,
    or_assoc]
  tauto

theorem State.output_of_running (running : s.resetLow = false) : s.output l =
    match (s.link l).receiver with
    | .idle => .highZ
    | .lowSinceReset => .drives (Config.outputOutsideWindow s.unstated l)
    | .collecting status [] => .drives status
    | .collecting _ (_ :: _) | .ignoring _ => .drives 0xFF
    | .presenting _ stream shifted _ => .drives (stream.getD shifted 0xFF) := by
  rw [State.output, running]
  rfl

theorem State.output_eq_highZ_iff :
    s.output l = .highZ ↔ s.resetLow = true ∨ (s.link l).receiver = .idle := by
  cases low : s.resetLow with
  | true => simp [State.output, low]
  | false =>
    rw [State.output_of_running low]
    cases (s.link l).receiver with
    | collecting status bytes => cases bytes <;> simp
    | _ => simp

/-- Settles O20: the status byte, attention and the output are read off their definitions. -/
theorem statusReadAndAttentionShowTheirConditions :
    Obligations.StatusReadAndAttentionShowTheirConditions := by
  intro s l
  obtain ⟨ready, responses, notices, errors, overrun, token, store, link⟩ := s.getElem_statusByte l
  refine ⟨ready, responses, notices, errors, overrun, token, store, link, fun b => exec_statusRead b,
    State.attention_iff, State.output_eq_highZ_iff, fun running idle => ⟨_, rfl, ?_⟩, fun running => ?_⟩
  · have falls : s.windowOf l ⟨true, [], false⟩ (fun code => !fetchCodes.contains code)
        = (s.withWindow l (.collecting (s.statusByte l) []) []).arbitrate := by
      simp [State.windowOf, State.admitsSegment, running, idle, Receiver.windowCode, State.runSegment,
        State.selectFalls, State.receiveBytes, State.collect, leadOut, State.withWindow]
    have low : (s.withWindow l (.collecting (s.statusByte l) []) []).arbitrate.resetLow = false := by
      rw [State.arbitrate_eq]
      exact running
    rw [falls, State.output_of_running low, State.receiver_arbitrate, State.link_withWindow]
  · rw [State.output_of_running running]
    refine ⟨fun status at_ => ?_, fun status bytes at_ some => ?_, fun code stream shifted isHead at_ => ?_,
      fun code at_ => ?_, fun at_ => ?_⟩
    · rw [at_]
    · obtain ⟨b, rest, rfl⟩ := List.exists_cons_of_ne_nil some
      rw [at_]
    · rw [at_]
      cases byte : stream[shifted]? <;> simp [byte]
    · rw [at_]
    · rw [at_]
      exact ⟨_, rfl⟩

end
end Sys2Proof.Machine
end

section
/-! PROOFS. ACQUIRE's parameters: which payloads are malformed, and which request the others spell (R21, R23,
R188). -/

namespace Sys2Proof.Machine

/-! ### The entry places (R21, R188) -/

/-- The tag and the mode byte of an entry place. -/
def entryPlace (p : List Byte) (i : Nat) : Tag × Byte := (wordAt p (5 + 3 * i), byteAt p (7 + 3 * i))

theorem acquirePlaces_eq (p : List Byte) : acquirePlaces p = (List.range 4).map (entryPlace p) := rfl

theorem acquireUsed_eq {p : List Byte} (few : (byteAt p 4).toNat ≤ 4) :
    acquireUsed p = (List.range (byteAt p 4).toNat).map (entryPlace p) := by
  rw [acquireUsed, acquirePlaces_eq, ← List.map_take, List.take_range, Nat.min_eq_left few]

theorem modeOf_eq_none_iff {b : Byte} : modeOf b = none ↔ 1 < b.toNat := by
  unfold modeOf
  split
  case h_1 zero => simp [zero]
  case h_2 one => simp [one]
  case h_3 no0 no1 =>
    simp only [true_iff]
    by_contra few
    interval_cases value : b.toNat
    · exact no0 rfl
    · exact no1 rfl

/-- A list of places has one tag twice exactly when two of its places do. -/
theorem not_nodup_map_range {α : Type} (f : Nat → α) (n : Nat) :
    ¬ ((List.range n).map f).Nodup ↔ ∃ i < n, ∃ j < i, f i = f j := by
  rw [List.nodup_map_iff_inj_on List.nodup_range]
  constructor
  · intro twice
    push Not at twice
    obtain ⟨i, hi, j, hj, same, apart⟩ := twice
    rw [List.mem_range] at hi hj
    rcases Nat.lt_or_gt_of_ne apart with below | above
    · exact ⟨j, hj, i, below, same.symm⟩
    · exact ⟨i, hi, j, above, same⟩
  · rintro ⟨i, hi, j, below, same⟩ distinct
    have eq := distinct i (List.mem_range.2 hi) j (List.mem_range.2 (below.trans hi)) same
    omega

/-- Which payloads are malformed (R23). -/
theorem acquireRequest?_eq_none_iff (p : List Byte) :
    let count := (byteAt p 4).toNat
    let tag (i : Nat) : Word := wordAt p (5 + 3 * i)
    (acquireRequest? p = none ↔
      count = 0 ∨ 4 < count ∨ (∃ i < count, tag i = 0)
        ∨ (∃ i < count, ∃ j < i, tag i = tag j)
        ∨ (∃ i < count, 1 < (byteAt p (7 + 3 * i)).toNat)
        ∨ wordAt p 0 = 0) := by
  intro count tag
  by_cases outside : count = 0 ∨ 4 < count
  · have bad : acquireRequest? p = none := if_pos outside
    exact iff_of_true bad (or_assoc.1 (.inl outside))
  have within : count ≤ 4 := Nat.le_of_not_lt fun more => outside (.inr more)
  have used := acquireUsed_eq within
  have zero : (acquireUsed p).any (fun e => e.1 == 0) = true ↔ ∃ i < count, tag i = 0 := by
    rw [used]
    simp [entryPlace, tag, count]
  have twice : ¬ ((acquireUsed p).map Prod.fst).Nodup ↔ ∃ i < count, ∃ j < i, tag i = tag j := by
    rw [used, List.map_map]
    exact not_nodup_map_range _ _
  have mode : (acquireUsed p).any (fun e => (modeOf e.2).isNone) = true
      ↔ ∃ i < count, 1 < (byteAt p (7 + 3 * i)).toNat := by
    rw [used]
    simp [entryPlace, modeOf_eq_none_iff, count]
  have counted : ¬ ((byteAt p 4).toNat = 0 ∨ Config.tagsPerLease < (byteAt p 4).toNat) := outside
  rw [← or_assoc, or_iff_right outside, ← zero, ← twice, ← mode, acquireRequest?, if_neg counted]
  split_ifs <;> simp_all

/-! ### The request that a payload spells (R188) -/

/-- The bytes of an entry (R188). -/
def Entry.bytes (e : Entry) : List Byte := wordBytes e.tag ++ [e.mode.byte]

/-- An entry's place, read from the first entry on. -/
def entryFrom (q : List Byte) (i : Nat) : Tag × Byte := (wordAt q (3 * i), byteAt q (3 * i + 2))

theorem entryFrom_append_right {e : List Byte} (length : e.length = 3) (q : List Byte) (i : Nat) :
    entryFrom (e ++ q) (i + 1) = entryFrom q i := by
  have first : 3 * (i + 1) - e.length = 3 * i := by omega
  have third : 3 * (i + 1) + 2 - e.length = 3 * i + 2 := by omega
  simp only [entryFrom, wordAt_append_right (show e.length ≤ 3 * (i + 1) by omega),
    byteAt_append_right (show e.length ≤ 3 * (i + 1) + 2 by omega), first, third]

/-- The places of a spelled set read its entries. -/
theorem map_entryFrom (set : List Entry) (rest : List Byte) :
    (List.range set.length).map (entryFrom (set.flatMap Entry.bytes ++ rest))
      = set.map fun e => (e.tag, e.mode.byte) := by
  induction set with
  | nil => rfl
  | cons e set ih =>
    have here : entryFrom (e.bytes ++ (set.flatMap Entry.bytes ++ rest)) 0 = (e.tag, e.mode.byte) := by
      have tag := wordAt_wordBytes e.tag (e.mode.byte :: (set.flatMap Entry.bytes ++ rest))
      simp only [entryFrom, Entry.bytes, List.append_assoc, List.singleton_append]
      exact Prod.ext tag rfl
    rw [List.length_cons, List.range_succ_eq_map, List.map_cons, List.map_map, List.flatMap_cons,
      List.append_assoc, here, List.map_cons, ← ih]
    exact congrArg _ (List.map_congr_left fun i _ => entryFrom_append_right rfl _ i)

theorem acquireRequest?_spelled {d lim : Word} {set : List Entry} {rest : List Byte} (lasts : d ≠ 0)
    (some : set ≠ []) (few : set.length ≤ 4) (distinct : (tagsOf set).Nodup) (tags : 0 ∉ tagsOf set) :
    acquireRequest? (acquirePayload d lim set rest) = .some ⟨d, lim, set⟩ := by
  generalize spelt : acquirePayload d lim set rest = p
  have behind : p = (wordBytes d ++ wordBytes lim ++ natByte set.length)
      ++ (set.flatMap Entry.bytes ++ rest) := by
    simp only [← spelt, acquirePayload, List.append_assoc]
    rfl
  have duration : wordAt p 0 = d := by
    rw [behind, List.append_assoc, List.append_assoc]
    exact wordAt_wordBytes d _
  have limit : wordAt p 2 = lim := by
    rw [behind, List.append_assoc, List.append_assoc, wordAt_append_right (Nat.le_refl 2)]
    exact wordAt_wordBytes lim _
  have count : (byteAt p 4).toNat = set.length := by
    rw [behind, byteAt_append_left (by simp)]
    change (BitVec.ofNat 8 set.length).toNat = set.length
    rw [BitVec.toNat_ofNat]
    omega
  have used : acquireUsed p = set.map fun e => (e.tag, e.mode.byte) := by
    rw [acquireUsed_eq (count.trans_le few), count, ← map_entryFrom set rest]
    refine List.map_congr_left fun i _ => ?_
    have first : 5 + 3 * i - 5 = 3 * i := by omega
    have third : 7 + 3 * i - 5 = 3 * i + 2 := by omega
    rw [entryPlace, behind, wordAt_append_right (show 5 ≤ 5 + 3 * i by omega),
      byteAt_append_right (show 5 ≤ 7 + 3 * i by omega)]
    exact Prod.ext (congrArg (wordAt _) first) (congrArg (byteAt _) third)
  have tagged : (set.map fun e => (e.tag, e.mode.byte)).map Prod.fst = tagsOf set := by
    simp [tagsOf]
  have within : ¬ (set.length = 0 ∨ Config.tagsPerLease < set.length) := by
    rintro (empty | more)
    · exact some (List.length_eq_zero_iff.1 empty)
    · exact absurd few (Nat.not_le.2 more)
  have nonzero : ¬ (set.map fun e => (e.tag, e.mode.byte)).any (fun e => e.1 == 0) = true := by
    simpa [tagsOf] using tags
  have modes : ¬ (set.map fun e => (e.tag, e.mode.byte)).any (fun e => (modeOf e.2).isNone) = true := by
    simp [modeOf_byte]
  simp only [acquireRequest?, count, used, tagged, if_neg within, if_neg nonzero, distinct,
    not_true_eq_false, if_false, if_neg modes, duration, lasts, limit, List.map_map]
  simp [Function.comp_def, modeOf_byte]

/-- Settles O28: the tests of the parameters, and the reading back of what a payload spells. -/
theorem acquireParametersAreChecked : Obligations.AcquireParametersAreChecked :=
  ⟨fun p _ => acquireRequest?_eq_none_iff p, fun _ _ _ _ lasts some few distinct tags _ =>
    acquireRequest?_spelled lasts some few distinct tags⟩

end Sys2Proof.Machine
end

section
/-! PROOFS. ACQUIRE: its refusals in their order, the immediate grant, and the wait (R22 to R30, R43 to R47,
R62). -/

namespace Sys2Proof.Machine

section
variable {s : State} {l : Link} {seq : Byte} {client : Client} {p : List Byte} {o : Owner}
  {set before after : List Entry} {e : Entry} {r : AcquireRequest}

/-! ### The row (R22) -/

theorem exec_acquire_of_serving (loaded : s.loading = false) (taken : s.serving l 0x10 seq client p)
    (length : p.length = 17) :
    let a := ruleAcquire s ⟨l, client⟩ p
    exec .acquire s = .next (a.1.replies l 0x10 seq a.2.outcome a.2.payload) := by
  have served : exec .acquire s = .next (s.serveRequest 0x10 ruleAcquire .toItsEnd) := rfl
  have accepted : payloadLength? 0x10 = some p.length := by rw [length]; rfl
  rw [served, State.serveRequest_of_serving ruleAcquire taken loaded accepted nofun]

theorem ruleAcquire_of_bad (bad : acquireRequest? p = none) : ruleAcquire s o p = (s, .plain .badParam) := by
  simp only [ruleAcquire, bad]

theorem ruleAcquire_of_refusal {a : Answer} (spelt : acquireRequest? p = some r)
    (refused : s.acquireRefusal o r.set = some a) : ruleAcquire s o p = (s, a) := by
  simp only [ruleAcquire, spelt, refused]

theorem ruleAcquire_of_passes (spelt : acquireRequest? p = some r)
    (passes : s.acquireRefusal o r.set = none) : ruleAcquire s o p = s.acquireServe o r := by
  simp only [ruleAcquire, spelt, passes]

/-! ### The first entry that fails (R24, R25, R29) -/

theorem entryRefusal_of_first {code : OutcomeCode} {fails : Entry → Bool}
    (none : ∀ x ∈ before, fails x = false) (here : fails e = true) :
    entryRefusal code (before ++ e :: after) fails = some ⟨code, .entry (before.length + 1)⟩ := by
  have found : (before ++ e :: after).findIdx? fails = some before.length := by
    rw [List.findIdx?_append, List.findIdx?_eq_none_iff.2 none, List.findIdx?_cons, here]
    simp
  rw [entryRefusal, found]
  rfl

/-- The refusals of steps 3 to 6, each behind those before it (R24, R25). -/
theorem State.acquireRefusal_eq : s.acquireRefusal o set =
    ((((s.tokens.refusal
      |>.or (entryRefusal .pinned set fun e => (s.view e.tag).pin.inForce))
      |>.or (entryRefusal .pinPending set fun e => (s.view e.tag).pin.settling))
      |>.or (entryRefusal .already set fun e => s.ownsOn o e.tag))
      |>.or (if s.freeRecords < s.missingRecords set then some (.plain .tableFull) else none)) := by
  simp only [State.acquireRefusal, Option.orElse_eq_orElse, Option.orElse_eq_or, Option.or_assoc]

theorem TokenUnit.refusal_eq_none {u : TokenUnit} (live : u.state ≠ .fault) (open' : u.state ≠ .exhausted) :
    u.refusal = none := by
  cases state : u.state <;> simp_all [TokenUnit.refusal]

/-- Steps 3 to 6 pass (R24, R25). -/
theorem State.acquireRefusal_eq_none (live : s.tokens.refusal = none)
    (inForce : ∀ x ∈ set, (s.view x.tag).pin.inForce = false)
    (settling : ∀ x ∈ set, (s.view x.tag).pin.settling = false)
    (owned : ∀ x ∈ set, s.ownsOn o x.tag = false)
    (fits : s.missingRecords set ≤ s.freeRecords) : s.acquireRefusal o set = none := by
  rw [State.acquireRefusal_eq, live, entryRefusal_eq_none.2 inForce, entryRefusal_eq_none.2 settling,
    entryRefusal_eq_none.2 owned, if_neg (Nat.not_lt.2 fits)]
  rfl

/-! ### What the statements ask of an entry -/

theorem PinState.inForce_iff {pin : PinState} :
    pin.inForce = true ↔ ∃ k, pin = .pinned k ∨ pin = .unpinning k := by
  cases pin <;> simp [PinState.inForce]

theorem PinState.settling_iff {pin : PinState} : pin.settling = true ↔ ∃ k, pin = .pinning k := by
  cases pin <;> simp [PinState.settling]

theorem State.ownsOn_iff {tag : Tag} : s.ownsOn o tag = true ↔
    (∃ h ∈ (s.view tag).holders, ∃ y, s.lease h.slot = some y ∧ y.owner = o)
      ∨ ∃ w ∈ (s.view tag).queue, ∃ y, s.wait w = some y ∧ y.owner = o := by
  simp only [State.ownsOn, Bool.or_eq_true, List.any_eq_true, Option.any_eq_true, beq_iff_eq]

theorem Record.admits_iff {r : Record} {m : Mode} : r.admits m = true ↔
    match m with
    | .shared => ∀ h ∈ r.holders, h.mode ≠ .exclusive
    | .exclusive => r.holders = [] := by
  cases m <;> simp [Record.admits]

/-- The tag of the entry is open to it: it is compatible, and no wait is before it (R26, R29). -/
def State.openTo (s : State) (e : Entry) : Bool :=
  (s.view e.tag).admits e.mode && (s.view e.tag).queue.isEmpty

theorem State.all_openTo : set.all s.openTo = (s.noQueue set && s.admitsAll set) := by
  induction set with
  | nil => rfl
  | cons e rest ih =>
    simp only [State.noQueue, State.admitsAll, List.all_cons, State.openTo] at ih ⊢
    rw [ih]
    ac_rfl

/-! ### Steps 7 to 11 (R26, R29, R43, R44) -/

theorem State.immediateSlot?_eq_none (held : set.all s.openTo = false ∨ s.freeLease? = none
    ∨ s.tokens.state ≠ .ready) : s.immediateSlot? set = none := by
  rw [Option.eq_none_iff_forall_ne_some]
  intro i granted
  obtain ⟨⟨queues, admits, ready⟩, free⟩ := State.immediateSlot?_eq_some.1 granted
  rcases held with shut | full | unready
  · simp [State.all_openTo, queues, admits] at shut
  · nomatch full.symm.trans free
  · exact unready ready

theorem State.acquireServe_of_slot {i : LeaseSlot} (free : s.immediateSlot? r.set = some i) :
    s.acquireServe o r = s.acquireGrant o r i := by
  simp only [State.acquireServe, free]

theorem State.acquireServe_of_noWait (held : s.immediateSlot? r.set = none) (limit : r.limit = 0) :
    s.acquireServe o r = s.acquireNoWait r.set := by
  simp only [State.acquireServe, held, limit, if_true]

theorem State.acquireServe_of_wait (held : s.immediateSlot? r.set = none) (limit : r.limit ≠ 0) :
    s.acquireServe o r = s.acquireWait o r := by
  simp only [State.acquireServe, held, limit, if_false]

theorem State.not_openTo (e : Entry) :
    (!(s.view e.tag).admits e.mode || !(s.view e.tag).queue.isEmpty) = !s.openTo e := by
  simp only [State.openTo, Bool.not_and]

theorem State.acquireNoWait_of_first (none : ∀ x ∈ before, s.openTo x = true) (here : s.openTo e = false) :
    s.acquireNoWait (before ++ e :: after) = (s, ⟨.conflict, .entry (before.length + 1)⟩) := by
  have refused := entryRefusal_of_first (code := .conflict) (before := before) (e := e)
    (after := after) (fails := fun e => !s.openTo e) (fun x mem => by simp [none x mem]) (by simp [here])
  simp only [State.acquireNoWait, State.not_openTo, refused]

theorem State.acquireNoWait_of_open (all : ∀ x ∈ set, s.openTo x = true) :
    s.acquireNoWait set = if s.freeLease?.isNone then (s, .plain .leaseFull)
      else (s.demandToken, .plain .tokenNotReady) := by
  have passes : entryRefusal .conflict set (fun e => !s.openTo e) = none :=
    entryRefusal_eq_none.2 fun x mem => by simp [all x mem]
  simp only [State.acquireNoWait, State.not_openTo, passes]

theorem State.acquireWait_of_full (full : s.freeWait? = none) : s.acquireWait o r = (s, .plain .waitFull) := by
  simp only [State.acquireWait, full]

theorem State.acquireWait_of_noRoom {w : WaitSlot} (free : s.freeWait? = some w)
    (noRoom : 32 ≤ (s.noticeQueue o.link).stored.length + (s.noticeQueue o.link).reserved) :
    s.acquireWait o r = (s, .plain .noteFull) := by
  have full : ¬ (s.noticeQueue o.link).hasRoom = true := fun room =>
    absurd (NoticeQueue.hasRoom_iff.1 room) (Nat.not_lt.2 noRoom)
  simp only [State.acquireWait, free, full, Bool.false_eq_true, if_false]

/-! ### The refusals (R24, R25, R29, R43, R44) -/

/-- Settles O29: each refusal is the first of the steps that fails. -/
theorem acquireRefusesInItsOrder : Obligations.AcquireRefusesInItsOrder := by
  intro s l seq client p before after e d lim loaded taken length set refuses inForce settling owned open'
    first none' position
  have isInForce (x : Entry) : (s.view x.tag).pin.inForce = true ↔ inForce x := PinState.inForce_iff
  have isSettling (x : Entry) : (s.view x.tag).pin.settling = true ↔ settling x := PinState.settling_iff
  have isOwned (x : Entry) : s.ownsOn ⟨l, client⟩ x.tag = true ↔ owned x := State.ownsOn_iff
  have isOpen (x : Entry) : s.openTo x = true ↔ open' x :=
    (iff_of_eq (Bool.and_eq_true _ _)).trans (and_congr Record.admits_iff List.isEmpty_iff)
  have row := exec_acquire_of_serving loaded taken length
  refine ⟨fun bad => ?_, fun spelt => ?_⟩
  · rw [ruleAcquire_of_bad bad] at row
    exact row
  have refusal {a : Answer} (refused : s.acquireRefusal ⟨l, client⟩ set = some a) :
      refuses a.outcome a.payload := by
    rw [ruleAcquire_of_refusal spelt refused] at row
    exact row
  have cleared {fails : Entry → Prop} {test : Entry → Bool} (same : ∀ x, test x = true ↔ fails x)
      {xs : List Entry} (none : ∀ x ∈ xs, ¬ fails x) : ∀ x ∈ xs, test x = false :=
    fun x mem => Bool.eq_false_iff.2 (mt (same x).1 (none x mem))
  have stops {fails : Entry → Prop} {test : Entry → Bool} (same : ∀ x, test x = true ↔ fails x)
      {code : OutcomeCode} (here : first fails) :
      entryRefusal code set test = some ⟨code, position⟩ :=
    entryRefusal_of_first (cleared same here.1) ((same e).2 here.2)
  have passes {fails : Entry → Prop} {test : Entry → Bool} (same : ∀ x, test x = true ↔ fails x)
      (code : OutcomeCode) (all : none' fails) : entryRefusal code set test = none :=
    entryRefusal_eq_none.2 (cleared same all)
  refine ⟨fun fault => refusal (a := .plain .tokenFault) ?_, fun ended => refusal (a := .plain .exhausted) ?_,
    fun live open_ => ?_⟩
  · simp [State.acquireRefusal_eq, TokenUnit.refusal, fault]
  · simp [State.acquireRefusal_eq, TokenUnit.refusal, ended]
  have token := TokenUnit.refusal_eq_none live open_
  refine ⟨fun here => refusal (a := ⟨.pinned, position⟩) ?_, fun noPin => ⟨fun here =>
    refusal (a := ⟨.pinPending, position⟩) ?_, fun noPending => ⟨fun here =>
    refusal (a := ⟨.already, position⟩) ?_, fun notOwned => ⟨fun full =>
    refusal (a := .plain .tableFull) ?_, fun fits => ?_⟩⟩⟩⟩
  · rw [State.acquireRefusal_eq, token, stops isInForce here]
    rfl
  · rw [State.acquireRefusal_eq, token, passes isInForce _ noPin, stops isSettling here]
    rfl
  · rw [State.acquireRefusal_eq, token, passes isInForce _ noPin, passes isSettling _ noPending,
      stops isOwned here]
    rfl
  · rw [State.acquireRefusal_eq, token, passes isInForce _ noPin, passes isSettling _ noPending,
      passes isOwned _ notOwned]
    exact if_pos full
  have through : s.acquireRefusal ⟨l, client⟩ set = none :=
    State.acquireRefusal_eq_none token (cleared isInForce noPin) (cleared isSettling noPending)
      (cleared isOwned notOwned) fits
  rw [ruleAcquire_of_passes spelt through] at row
  have allOpen (all : ∀ x ∈ set, open' x) : ∀ x ∈ set, s.openTo x = true :=
    fun x mem => (isOpen x).2 (all x mem)
  refine ⟨fun limit here => ?_, fun limit all full => ?_, fun limit all some unready => ?_,
    fun limit held => ?_⟩
  · have shut : s.openTo e = false := Bool.eq_false_iff.2 (mt (isOpen e).1 here.2)
    have before_ : ∀ x ∈ before, s.openTo x = true := fun x mem => (isOpen x).2 (not_not.1 (here.1 x mem))
    have held : set.all s.openTo = false := by simp [set, shut]
    rw [State.acquireServe_of_noWait (State.immediateSlot?_eq_none (.inl held)) limit,
      State.acquireNoWait_of_first before_ shut] at row
    exact row
  · rw [State.acquireServe_of_noWait (State.immediateSlot?_eq_none (.inr (.inl full))) limit,
      State.acquireNoWait_of_open (allOpen all), full] at row
    exact row
  · obtain ⟨i, free⟩ := Option.ne_none_iff_exists'.1 some
    rw [State.acquireServe_of_noWait (State.immediateSlot?_eq_none (.inr (.inr unready))) limit,
      State.acquireNoWait_of_open (allOpen all), free] at row
    exact row
  · have waits : s.immediateSlot? set = none := by
      refine State.immediateSlot?_eq_none (held.imp_left fun ⟨x, mem, shut⟩ => ?_)
      exact List.all_eq_false.2 ⟨x, mem, mt (isOpen x).1 shut⟩
    rw [State.acquireServe_of_wait waits limit] at row
    refine ⟨fun full => ?_, fun some noRoom => ?_⟩
    · rw [State.acquireWait_of_full full] at row
      exact row
    · obtain ⟨w, free⟩ := Option.ne_none_iff_exists'.1 some
      rw [State.acquireWait_of_noRoom free noRoom] at row
      exact row

end
end Sys2Proof.Machine
end

section
/-! PROOFS. An ACQUIRE that is granted at once, and one that becomes a wait (R26 to R28, R45 to R47, R62). -/

namespace Sys2Proof.Machine

section
variable {s : State} {l : Link} {seq : Byte} {client : Client} {o : Owner} {set : List Entry}
  {d lim : Word} {rest : List Byte}

theorem acquirePayload_length (few : set.length ≤ 4) (fill : rest.length = 3 * (4 - set.length)) :
    (acquirePayload d lim set rest).length = 17 := by
  have entries := length_flatMap_of_const (f := fun e : Entry => wordBytes e.tag ++ [e.mode.byte]) (n := 3)
    (fun _ => rfl) set
  simp only [acquirePayload, List.length_append, wordBytes_length, natByte_length, entries, fill]
  omega

/-- A well-formed request that passes steps 3 to 6 is served by the later steps (R22). -/
theorem exec_acquire_of_passes (loaded : s.loading = false)
    (taken : s.serving l 0x10 seq client (acquirePayload d lim set rest)) (some : set ≠ [])
    (few : set.length ≤ 4) (fill : rest.length = 3 * (4 - set.length)) (distinct : (tagsOf set).Nodup)
    (tags : 0 ∉ tagsOf set) (lasts : d ≠ 0) (live : s.tokens.refusal = none)
    (open' : ∀ e ∈ set, (s.view e.tag).pin = .unpinned ∧ s.ownsOn ⟨l, client⟩ e.tag = false)
    (fits : (set.countP fun e => (s.record? e.tag).isNone) ≤ 256 - s.directory.length) :
    let a := s.acquireServe ⟨l, client⟩ ⟨d, lim, set⟩
    exec .acquire s = .next (a.1.replies l 0x10 seq a.2.outcome a.2.payload) := by
  have row := exec_acquire_of_serving loaded taken (acquirePayload_length few fill)
  have unpinned (x : Entry) (mem : x ∈ set) : (s.view x.tag).pin = .unpinned := (open' x mem).1
  have passes : s.acquireRefusal ⟨l, client⟩ set = none :=
    State.acquireRefusal_eq_none live (fun x mem => by rw [unpinned x mem]; rfl)
      (fun x mem => by rw [unpinned x mem]; rfl) (fun x mem => (open' x mem).2) fits
  rw [ruleAcquire_of_passes (acquireRequest?_spelled lasts some few distinct tags) passes] at row
  exact row

/-! ### The immediate grant (R26 to R28, R62) -/

/-- The unit ends with the last token of all (R89). -/
theorem TokenUnit.issue_exhausted_iff {u : TokenUnit} (ready : u.state = .ready) :
    u.issue.state = .exhausted ↔ u.serial = 16777215 ∧ u.epoch = 65535 := by
  unfold TokenUnit.issue
  simp only [ready]
  split
  case isTrue more => simpa using fun last => absurd last (by simpa using more)
  case isFalse last =>
    have last : u.serial = 16777215 := by simpa using last
    split
    case isTrue more => simpa [last] using more
    case isFalse final =>
      have final : u.epoch = 65535 := by simpa using final
      simp [last, final]

theorem State.afterGrant_of_more (more : s.tokens.state ≠ .exhausted) : s.afterGrant = s := if_neg more

theorem State.afterGrant_of_last (last : s.tokens.state = .exhausted) :
    s.afterGrant = (s.abortWaits .exhausted).passAndRetire := if_pos last

/-- Settles O30: the slot and the unit make the grant, whose last token ends every wait. -/
theorem acquireGrantsAtOnce : Obligations.AcquireGrantsAtOnce := by
  intro s l seq client d lim set rest slot loaded taken some few fill distinct tags lasts ready each fits
    vacant lowest gen token granted answer
  have live : s.tokens.refusal = none :=
    TokenUnit.refusal_eq_none (by rw [ready]; nofun) (by rw [ready]; nofun)
  have free : s.immediateSlot? set = .some slot := by
    refine State.immediateSlot?_eq_some.2 ⟨⟨List.all_eq_true.2 fun e mem => ?_,
      List.all_eq_true.2 fun e mem => ?_, ready⟩, State.freeLease?_of_lowest vacant lowest⟩
    · obtain ⟨-, -, queue, -⟩ := each e mem
      rw [queue]
      rfl
    · obtain ⟨-, -, -, admits⟩ := each e mem
      exact admits
  have row := exec_acquire_of_passes loaded taken some few fill distinct tags lasts live
    (fun e mem => ⟨(each e mem).1, (each e mem).2.1⟩) fits
  have grants : s.grantLease slot ⟨l, client⟩ set d = granted := s.grantLease_eq slot ⟨l, client⟩ set d
  have unit : granted.tokens.state = .exhausted ↔ s.tokens.serial = 16777215 ∧ s.tokens.epoch = 65535 :=
    TokenUnit.issue_exhausted_iff ready
  rw [State.acquireServe_of_slot (r := ⟨d, lim, set⟩) free] at row
  simp only [State.acquireGrant, grants] at row
  refine ⟨fun more => ?_, fun serial epoch => ?_⟩
  · rw [State.afterGrant_of_more (mt unit.1 more)] at row
    exact row
  · rw [State.afterGrant_of_last (unit.2 ⟨serial, epoch⟩)] at row
    exact row

/-! ### The wait (R45 to R47) -/

theorem State.acquireWait_of_room {w : WaitSlot} {r : AcquireRequest} (free : s.freeWait? = some w)
    (room : (s.noticeQueue o.link).stored.length + (s.noticeQueue o.link).reserved < 32) :
    s.acquireWait o r = (if s.heldByUnitAlone r.set then (s.createWait w o r).demandToken
        else s.createWait w o r,
      ⟨.queued, .queued ⟨w, stepGeneration s.waitGens[w]⟩
        (r.set.map fun e => (s.view e.tag).queue.length)⟩) := by
  simp only [State.acquireWait, free, NoticeQueue.hasRoom_iff.2 room, if_true]

/-- The creation of a wait touches its slot, generation and countdown, the orders and the reservations
(R45). -/
theorem State.createWait_eq (s : State) (w : WaitSlot) (o : Owner) (r : AcquireRequest) :
    s.createWait w o r = (({ s with
      waits := s.waits.set w (some ⟨stepGeneration s.waitGens[w], o, r.set, r.duration, r.limit⟩)
      waitGens := s.waitGens.set w (stepGeneration s.waitGens[w])
      creation := s.creation ++ [w]
      waitClock := if r.limit = 65535 then s.waitClock
        else s.waitClock.set w
          ⟨true, r.limit, stepGeneration s.waitGens[w], s.waitClock[w].mark⟩ } : State).joinQueues w
            r.set).setNotices o.link
      { s.noticeQueue o.link with reserved := (s.noticeQueue o.link).reserved + 1 } := by
  by_cases unlimited : r.limit = 65535
  · rw [if_pos unlimited]
    exact if_pos unlimited
  · rw [if_neg unlimited]
    exact if_neg unlimited

/-- Settles O31: what may wait and is not granted takes a wait slot, and demands a token where the unit alone
holds it back. -/
theorem acquireQueuesAWait : Obligations.AcquireQueuesAWait := by
  intro s l seq client d lim set rest w loaded taken some few fill distinct tags lasts may running open'
    each fits alone held vacant lowest room gen queued
  have row := exec_acquire_of_passes loaded taken some few fill distinct tags lasts
    (TokenUnit.refusal_eq_none running open') each fits
  have waits : s.immediateSlot? set = none := State.immediateSlot?_eq_none held
  have unitAlone : s.heldByUnitAlone set = (alone && s.freeLease?.isSome) := by
    change _ = (set.all s.openTo && s.freeLease?.isSome)
    rw [State.all_openTo, State.heldByUnitAlone]
  rw [State.acquireServe_of_wait (r := ⟨d, lim, set⟩) waits may,
    State.acquireWait_of_room (State.freeWait?_of_lowest vacant lowest) room, unitAlone,
    State.createWait_eq] at row
  exact row

end
end Sys2Proof.Machine
end

section
/-! PROOFS. Law 4 across power cycles: the begun count of the cells never falls, and an advance is started only
above it (R94, R107, R113). -/

namespace Sys2Proof.Machine

section
variable {s t u : State} {m : Nat}

/-! ### Never below the count (R94) -/

/-- The cells' begun count does not fall; and where a number bounds it and the store's from below, it goes on to
bound the store's, and an advance that is started is at a step above it. -/
structure NeverBelow (m : Nat) (s t : State) : Prop where
  cells : s.cells.begunCount ≤ t.cells.begunCount
  begun : m ≤ s.store.begun → m ≤ s.cells.begunCount → m ≤ t.store.begun
  starts : m ≤ s.store.begun → m ≤ s.cells.begunCount →
    ∀ n, t.store.controller = .busyAdvance n → s.store.controller = .busyAdvance n ∨ m < n

theorem Cells.begunCount_congr {c d : Cells} (same : d.epochs = c.epochs) : d.begunCount = c.begunCount := by
  rw [Cells.begunCount, Cells.begunCount, same]

namespace NeverBelow

theorem trans (h : NeverBelow m s t) (k : NeverBelow m t u) : NeverBelow m s u where
  cells := h.cells.trans k.cells
  begun store cells := k.begun (h.begun store cells) (cells.trans h.cells)
  starts store cells n busy := by
    rcases k.starts (h.begun store cells) (cells.trans h.cells) n busy with going | above
    · exact h.starts store cells n going
    · exact .inr above

/-- What leaves the epoch cells and the begun count, and starts no advance. -/
theorem of_no_start (epochs : t.cells.epochs = s.cells.epochs) (begun : t.store.begun = s.store.begun)
    (controller : ∀ n, t.store.controller = .busyAdvance n → s.store.controller = .busyAdvance n) :
    NeverBelow m s t where
  cells := (Cells.begunCount_congr epochs).ge
  begun store _ := begun ▸ store
  starts _ _ n busy := .inl (controller n busy)

theorem of_same (epochs : t.cells.epochs = s.cells.epochs) (store : t.store = s.store) :
    NeverBelow m s t :=
  of_no_start epochs (by rw [store]) fun _ => by rw [store]; exact id

theorem refl (s : State) : NeverBelow m s s := of_same rfl rfl

/-- A course of steps. -/
theorem of_steps {r : State → State → Prop} (step : ∀ s t, r s t → NeverBelow m s t)
    (steps : Relation.ReflTransGen r s t) : NeverBelow m s t := by
  induction steps with
  | refl => exact .refl s
  | tail _ last ih => exact ih.trans (step _ _ last)

theorem of_bare (same : t.bare = s.bare) : NeverBelow m s t :=
  have bare : NeverBelow m s s.bare := of_no_start rfl rfl fun _ => id
  (same ▸ bare).trans (of_no_start rfl rfl fun _ => id)

/-! ### The store's requests (R104, R107) -/

theorem startAdvance (s : State) : NeverBelow m s s.startAdvance := by
  by_cases more : s.store.begun < 65535
  · rw [State.startAdvance_of_lt more]
    have count := s.begunCount_setEpochMarks (s.store.begun + 1) (m := ⟨.partly, .blank⟩) nofun
    refine ⟨count ▸ le_max_left _ _, fun store _ => store.trans (Nat.le_succ _), fun store _ n busy => .inr ?_⟩
    obtain rfl := Controller.busyAdvance.inj busy
    exact Nat.lt_succ_of_le store
  · rw [State.startAdvance_of_le more]
    exact of_no_start rfl rfl nofun

theorem demandToken (s : State) : NeverBelow m s s.demandToken := by
  unfold State.demandToken State.requestAdvance
  split
  case isFalse => exact .refl s
  case isTrue =>
    split
    case h_1 =>
      have asks : NeverBelow m s { s with tokens := { s.tokens with state := .advancing } } := of_same rfl rfl
      exact asks.trans (startAdvance _)
    case h_2 | h_3 => exact of_no_start rfl rfl fun _ => id
    case h_4 | h_5 => exact of_same rfl rfl

/-! ### The moves -/

theorem removeLease (s : State) (i : LeaseSlot) : NeverBelow m s (s.removeLease i) := by
  rw [State.removeLease_eq]
  cases s.lease i <;> exact of_same rfl rfl

theorem removeWait (s : State) (w : WaitSlot) : NeverBelow m s (s.removeWait w) := by
  rw [State.removeWait_eq]
  cases s.wait w <;> exact of_same rfl rfl

theorem tableMove (move : TableMove s t) : NeverBelow m s t := by
  cases move with
  | quiet unseen => exact of_bare unseen.bare
  | removeLease i => exact removeLease s i
  | removeWait w => exact removeWait s w
  | shareLease => exact of_same rfl rfl
  | grant => exact (removeWait s _).trans (of_same rfl rfl)
  | demand => exact demandToken s

theorem tableMoves (moves : TableMoves s t) : NeverBelow m s t := of_steps (fun _ _ => tableMove) moves

theorem work (work : Work s t) : NeverBelow m s t := by
  cases work with
  | quiet unseen => exact of_bare unseen.bare
  | tables moves => exact (tableMoves moves).trans (of_same rfl rfl)
  | grant => exact of_same rfl rfl
  | createWait =>
    rw [State.createWait_eq]
    exact of_same rfl rfl
  | demand => exact demandToken s
  | acceptPin => exact of_no_start rfl rfl nofun
  | acceptUnpin => exact of_no_start rfl rfl nofun
  | renew => exact of_same rfl rfl

theorem move (move : Move s t) : NeverBelow m s t := by
  cases move with
  | unseen same => exact of_bare same
  | work w => exact work w
  | tick =>
    rw [State.tickClock_frame]
    exact of_same rfl rfl
  | runOut =>
    rw [State.appendIfRunOut_eq]
    exact of_same rfl rfl
  | clockItem =>
    rw [State.clearMark_eq]
    exact of_same rfl rfl
  | load =>
    rw [State.foldl_loadPin_eq]
    exact of_same rfl rfl
  | arm | fault | lostPinWrite | lostPinVoid | settlePin | keepPin => exact of_same rfl rfl
  | @giveUpPin _ _ e _ _ moves =>
    have given : NeverBelow m (s.removeLease e.leaseSlot) (s.giveUpPin e).freed := of_same rfl rfl
    exact (((removeLease s e.leaseSlot).trans given).trans (tableMoves moves)).trans (of_same rfl rfl)
  | startUpLoad =>
    exact ⟨le_rfl, fun _ cells => cells, nofun⟩
  | @endAdvance n _ beginStep doneStep =>
    have begun : (advanceMarks beginStep doneStep).beginMark ≠ .blank := by cases beginStep <;> nofun
    have count := s.begunCount_setEpochMarks n begun
    exact ⟨(le_max_left _ _).trans_eq count.symm, fun store _ => store, nofun⟩
  | endPinWrite | endPinVoid => exact of_no_start rfl rfl nofun
  | startPending idle pending =>
    have waits : NeverBelow m s ((s.setController .idle).setPendingAdvance false) :=
      of_no_start rfl rfl nofun
    rw [State.endOperation, if_pos pending]
    exact waits.trans (startAdvance _)

end NeverBelow

/-- A tear begins the step of an advance that is running, or leaves the epoch cells (R110). -/
theorem State.le_begunCount_tornCells (s : State) (tear : Tear) :
    s.cells.begunCount ≤ (s.tornCells tear).begunCount := by
  unfold State.tornCells
  split
  case h_1 n _ =>
    split
    case h_1 c => exact (le_max_left _ _).trans_eq (s.begunCount_setEpochMarks n (tornMark_ne_blank c)).symm
    case h_2 c =>
      exact (le_max_left _ _).trans_eq
        (s.begunCount_setEpochMarks n (m := ⟨.complete, tornMark c⟩) nofun).symm
    all_goals exact le_rfl
  case h_3 => split <;> exact (Cells.begunCount_congr rfl).ge
  all_goals exact (Cells.begunCount_congr rfl).ge

/-- Settles O55: move by move for every command but a reset, and a reset leaves the controller LOADING. -/
theorem begunStepsAreNeverTakenAgain : Obligations.BegunStepsAreNeverTakenAgain := by
  intro c s t answer
  obtain ⟨u, result, ⟨tear, -, rfl⟩ | moves⟩ := exec_answers c s
  · obtain rfl := Host.Outcome.next.inj (answer.symm.trans result)
    exact ⟨s.le_begunCount_tornCells tear, fun _ n busy => nomatch busy⟩
  · obtain rfl := Host.Outcome.next.inj (answer.symm.trans result)
    have kept : NeverBelow s.cells.begunCount s t := .of_steps (fun _ _ => NeverBelow.move) moves
    exact ⟨kept.cells, fun counted n busy other =>
      (kept.starts counted.ge le_rfl n busy).resolve_left other⟩

end
end Sys2Proof.Machine
end

section
/-! PROOFS. What the removal of many leases or waits leaves, and the abort of every wait (R34, R59, R60). -/

namespace Sys2Proof.Machine

section
variable {s t u : State}

/-! ### The removal of many waits (R59) -/

/-- A countdown as a removal leaves it. -/
def Countdown.stopped (c : Countdown) : Countdown := { c with running := false, value := 0 }

/-- The record without those of the waits listed that asked for its tag. -/
def State.dropWaiters (s : State) (ws : List WaitSlot) (r : Record) : Record :=
  { r with queue := r.queue.filter fun v => !(ws.contains v && s.asksFor r.tag v) }

/-- The waits listed are removed, and nothing but the notice queues changes besides. -/
structure WaitsRemoved (s : State) (ws : List WaitSlot) (t : State) : Prop where
  frame : t = { s with
    notices := t.notices, directory := t.directory, waits := t.waits, creation := t.creation
    waitClock := t.waitClock }
  directory : t.directory = s.directory.map (s.dropWaiters ws)
  creation : CreationLists s → t.creation = s.creation.filter fun v => !ws.contains v
  wait : ∀ v, t.wait v = if v ∈ ws then none else s.wait v
  clock : ∀ v : WaitSlot, t.waitClock[v]
    = if v ∈ ws ∧ (s.wait v).isSome = true then s.waitClock[v].stopped else s.waitClock[v]

theorem State.asksFor_removed {ws : List WaitSlot} (wait : ∀ v, t.wait v = if v ∈ ws then none else s.wait v)
    (tag : Tag) (v : WaitSlot) : t.asksFor tag v = (!ws.contains v && s.asksFor tag v) := by
  unfold State.asksFor
  rw [wait v]
  by_cases gone : v ∈ ws <;> simp [gone]

theorem State.directory_removeWait (s : State) (w : WaitSlot) :
    (s.removeWait w).directory = s.directory.map (s.dropWaiters [w]) := by
  have drops (r : Record) : s.dropWaiters [w] r
      = if s.asksFor r.tag w then r.dropWaiter w else r := by
    by_cases asks : s.asksFor r.tag w = true
    · rw [if_pos asks]
      refine congrArg (fun q => ({ r with queue := q } : Record)) (List.filter_congr fun v _ => ?_)
      by_cases same : v = w <;> simp [same, asks]
    · rw [if_neg asks]
      have kept : r.queue.filter (fun v => !([w].contains v && s.asksFor r.tag v)) = r.queue :=
        List.filter_eq_self.2 fun v _ => by by_cases same : v = w <;> simp [same, asks]
      rw [State.dropWaiters, kept]
  rw [State.removeWait_eq]
  cases live : s.wait w with
  | none =>
    refine (List.map_id'' (fun r => ?_) s.directory).symm
    rw [drops, State.asksFor, live]
    rfl
  | some x =>
    refine List.map_congr_left fun r _ => ?_
    rw [drops, State.asksFor, live]
    rfl

namespace WaitsRemoved

theorem lists {ws : List WaitSlot} (h : WaitsRemoved s ws t) (lists : CreationLists s) : CreationLists t where
  nodup := by
    rw [h.creation lists]
    exact lists.nodup.filter _
  live v := by
    rw [h.creation lists, List.mem_filter, lists.live v, h.wait v]
    by_cases gone : v ∈ ws <;> simp [gone]

theorem refl (s : State) : WaitsRemoved s [] s where
  frame := rfl
  directory := (List.map_id'' (fun r => by simp [State.dropWaiters]) s.directory).symm
  creation _ := by simp
  wait v := by simp
  clock v := by simp

theorem trans {ws vs : List WaitSlot} (h : WaitsRemoved s ws t) (k : WaitsRemoved t vs u) :
    WaitsRemoved s (ws ++ vs) u where
  frame := by
    rw [k.frame, h.frame]
  directory := by
    rw [k.directory, h.directory, List.map_map]
    refine List.map_congr_left fun r _ => congrArg (fun q => ({ r with queue := q } : Record)) ?_
    refine List.filter_filter.trans (List.filter_congr fun v _ => ?_)
    rw [State.asksFor_removed h.wait, State.dropWaiters]
    cases first : ws.contains v <;> cases later : vs.contains v <;> simp_all
  creation listed := by
    rw [k.creation (h.lists listed), h.creation listed, List.filter_filter]
    refine List.filter_congr fun v _ => ?_
    cases first : ws.contains v <;> cases later : vs.contains v <;> simp_all
  wait v := by
    rw [k.wait, h.wait]
    by_cases first : v ∈ ws <;> by_cases later : v ∈ vs <;> simp [first, later]
  clock v := by
    rw [k.clock, h.clock, h.wait]
    by_cases first : v ∈ ws <;> by_cases later : v ∈ vs <;> simp [first, later]

theorem single (s : State) (w : WaitSlot) : WaitsRemoved s [w] (s.removeWait w) where
  frame := by
    rw [s.removeWait_fields w]
  directory := s.directory_removeWait w
  creation lists := by
    rw [lists.creation_removeWait]
    refine List.filter_congr fun v _ => ?_
    by_cases same : v = w <;> simp [same]
  wait v := by
    rw [State.wait_removeWait]
    simp
  clock v := by
    rw [State.removeWait_eq]
    cases live : s.wait w with
    | none => by_cases same : v = w <;> simp [same, live]
    | some x =>
      by_cases same : v = w
      · subst same
        simp [live, Countdown.stopped]
      · have apart : w.val ≠ v.val := fun e => same (Fin.ext e.symm)
        simp [same, apart]

/-- What the posts of a cause leave. -/
theorem notices {ws : List WaitSlot} (h : WaitsRemoved s ws t)
    (same : u = { t with notices := u.notices }) : WaitsRemoved s ws u := by
  rw [same]
  exact ⟨by rw [h.frame], h.directory, h.creation, h.wait, h.clock⟩

/-- A course of removals. -/
theorem foldl {op : State → WaitSlot → State} (removes : ∀ s w, WaitsRemoved s [w] (op s w))
    (ws : List WaitSlot) (s : State) : WaitsRemoved s ws (ws.foldl op s) := by
  induction ws generalizing s with
  | nil => exact .refl s
  | cons w rest ih => exact (removes s w).trans (ih (op s w))

/-- Where every wait is removed, the creation order is empty and no queue holds one (R48). -/
theorem creation_of_all (h : WaitsRemoved s s.creation t) (lists : CreationLists s) : t.creation = [] := by
  rw [h.creation lists, List.filter_eq_nil_iff]
  intro v listed
  simpa using listed

theorem wait_of_all (h : WaitsRemoved s s.creation t) (lists : CreationLists s) (v : WaitSlot) :
    t.wait v = none := by
  rw [h.wait]
  by_cases listed : v ∈ s.creation
  · exact if_pos listed
  · rw [if_neg listed]
    simpa using mt (lists.live v).2 listed

theorem clock_of_all (h : WaitsRemoved s s.creation t) (lists : CreationLists s) (v : WaitSlot) :
    t.waitClock[v] = if (s.wait v).isSome = true then s.waitClock[v].stopped else s.waitClock[v] := by
  rw [h.clock]
  simp only [lists.live, and_self]

theorem dropWaiters_of_all (lists : CreationLists s) (r : Record) : s.dropWaiters s.creation r
    = { r with queue := r.queue.filter fun v => !s.asksFor r.tag v } := by
  refine congrArg (fun q => ({ r with queue := q } : Record)) (List.filter_congr fun v _ => ?_)
  cases asks : s.asksFor r.tag v with
  | false => simp
  | true =>
    have live : (s.wait v).isSome = true := by
      cases live : s.wait v with
      | some => rfl
      | none => simp [State.asksFor, live] at asks
    simpa using (lists.live v).2 live

/-- Under Law 5 what stands in a tag's queue asks for the tag. -/
theorem queue_of_all (law : QueueLaw s) {r : Record} (mem : r ∈ s.directory) :
    (r.queue.filter fun v => !s.asksFor r.tag v) = [] := by
  rw [law.queues r mem, List.filter_eq_nil_iff]
  intro v queued
  simp [(List.mem_filter.1 queued).2]

end WaitsRemoved

/-! ### The abort of every wait (R60) -/

/-- The notice that the abort of the wait posts to the link. -/
def State.abortNotice (s : State) (reason : AbortReason) (l : Link) (w : WaitSlot) : Option Notice :=
  (s.wait w).bind fun x =>
    if x.owner.link = l then some (.waitAborted x.owner.client ⟨w, x.gen⟩ reason) else none

/-- The wait holds a reservation of the link. -/
def State.waitOn (s : State) (l : Link) (w : WaitSlot) : Bool := (s.wait w).any fun x => x.owner.link == l

theorem State.removed_abortWait (reason : AbortReason) (s : State) (w : WaitSlot) :
    WaitsRemoved s [w] (State.abortWait reason s w) := by
  rw [State.abortWait_eq]
  cases live : s.wait w with
  | some x => exact (WaitsRemoved.single s w).notices rfl
  | none =>
    have gone := WaitsRemoved.single s w
    rwa [State.removeWait_eq, live] at gone

/-- The abort of one wait posts its notice into its reservation, on its link alone. -/
theorem State.noticeQueue_abortWait (reason : AbortReason) (s : State) (w : WaitSlot) (l : Link) :
    (State.abortWait reason s w).noticeQueue l = { s.noticeQueue l with
      stored := (s.noticeQueue l).stored ++ (s.abortNotice reason l w).toList
      reserved := (s.noticeQueue l).reserved - (if s.waitOn l w then 1 else 0) } := by
  rw [State.abortWait_eq, State.abortNotice, State.waitOn]
  cases live : s.wait w with
  | none => simp
  | some x =>
    have before : (s.removeWait w).noticeQueue = s.noticeQueue := by
      rw [s.removeWait_fields w]
      rfl
    dsimp only
    rw [State.postReserved, State.noticeQueue_setNotices, before]
    by_cases own : l = x.owner.link
    · subst own
      simp
    · simp [own, Ne.symm own]

/-- The aborts of waits listed once each post their notices in the list's order. -/
theorem State.noticeQueue_foldl_abortWait (reason : AbortReason) (l : Link) (ws : List WaitSlot)
    (once : ws.Nodup) (s : State) :
    (ws.foldl (State.abortWait reason) s).noticeQueue l = { s.noticeQueue l with
      stored := (s.noticeQueue l).stored ++ ws.filterMap (s.abortNotice reason l)
      reserved := (s.noticeQueue l).reserved - ws.countP (s.waitOn l) } := by
  induction ws generalizing s with
  | nil => simp
  | cons w rest ih =>
    obtain ⟨apart, later⟩ := List.nodup_cons.1 once
    have same (v : WaitSlot) (mem : v ∈ rest) : (State.abortWait reason s w).wait v = s.wait v := by
      rw [(s.removed_abortWait reason w).wait, if_neg]
      rintro own
      exact apart (List.mem_singleton.1 own ▸ mem)
    have notices : rest.filterMap ((State.abortWait reason s w).abortNotice reason l)
        = rest.filterMap (s.abortNotice reason l) :=
      List.filterMap_congr fun v mem => by rw [State.abortNotice, same v mem, State.abortNotice]
    have held : rest.countP ((State.abortWait reason s w).waitOn l) = rest.countP (s.waitOn l) :=
      List.countP_congr fun v mem => by rw [State.waitOn, same v mem, State.waitOn]
    rw [List.foldl_cons, ih later, notices, held, State.noticeQueue_abortWait]
    have stored : (s.abortNotice reason l w).toList ++ rest.filterMap (s.abortNotice reason l)
        = (w :: rest).filterMap (s.abortNotice reason l) := by
      rw [List.filterMap_cons]
      cases s.abortNotice reason l w <;> rfl
    rw [List.append_assoc, stored, List.countP_cons, Nat.sub_sub, Nat.add_comm (rest.countP _)]

/-- Settles O17: the aborts are the removal of the creation order, with a post for each wait. -/
theorem anAbortEndsEveryWait : Obligations.AnAbortEndsEveryWait := by
  intro s reason law t notice
  have removed : WaitsRemoved s s.creation t := .foldl (State.removed_abortWait reason) s.creation s
  have lists := law.lists
  have directory : t.directory = s.directory.map fun r => { r with queue := [] } := by
    refine removed.directory.trans (List.map_congr_left fun r mem => ?_)
    rw [WaitsRemoved.dropWaiters_of_all lists, WaitsRemoved.queue_of_all law mem]
  have clock := removed.clock_of_all lists
  refine ⟨?_, removed.wait_of_all lists, fun w live => (clock w).trans (if_pos live),
    fun w free => (clock w).trans (if_neg (by simp [free])),
    fun l => s.noticeQueue_foldl_abortWait reason l s.creation lists.nodup⟩
  rw [← directory, ← removed.creation_of_all lists]
  exact removed.frame

end
end Sys2Proof.Machine
end

section
/-! PROOFS. CLEAR: every ACTIVE lease and every live wait goes, and each notice queue holds CLEARED (R182, R183). -/

namespace Sys2Proof.Machine

section
variable {s t u : State}

/-! ### The removal of many leases (R34) -/

/-- The lease in the slot has the tag in its set. -/
def State.claims (s : State) (tag : Tag) (i : LeaseSlot) : Bool :=
  (s.lease i).any fun x => (tagsOf x.set).contains tag

/-- The record without those of the leases listed that have its tag. -/
def State.dropHolders (s : State) (slots : List LeaseSlot) (r : Record) : Record :=
  { r with holders := r.holders.filter fun h => !(slots.contains h.slot && s.claims r.tag h.slot) }

/-- The leases listed are removed. -/
structure LeasesRemoved (s : State) (slots : List LeaseSlot) (t : State) : Prop where
  frame : t = { s with directory := t.directory, leases := t.leases, leaseClock := t.leaseClock }
  directory : t.directory = s.directory.map (s.dropHolders slots)
  lease : ∀ i, t.lease i = if i ∈ slots then none else s.lease i
  clock : ∀ i : LeaseSlot, t.leaseClock[i]
    = if i ∈ slots ∧ (s.lease i).isSome = true then s.leaseClock[i].stopped else s.leaseClock[i]

theorem State.directory_removeLease (s : State) (i : LeaseSlot) :
    (s.removeLease i).directory = s.directory.map (s.dropHolders [i]) := by
  have drops (r : Record) : s.dropHolders [i] r = if s.claims r.tag i then r.dropHolder i else r := by
    by_cases claims : s.claims r.tag i = true
    · rw [if_pos claims]
      refine congrArg (fun q => ({ r with holders := q } : Record)) (List.filter_congr fun h _ => ?_)
      by_cases same : h.slot = i <;> simp [same, claims]
    · rw [if_neg claims]
      have kept : r.holders.filter (fun h => !([i].contains h.slot && s.claims r.tag h.slot)) = r.holders :=
        List.filter_eq_self.2 fun h _ => by by_cases same : h.slot = i <;> simp [same, claims]
      rw [State.dropHolders, kept]
  rw [State.removeLease_eq]
  cases held : s.lease i with
  | none =>
    refine (List.map_id'' (fun r => ?_) s.directory).symm
    rw [drops, State.claims, held]
    rfl
  | some x =>
    refine List.map_congr_left fun r _ => ?_
    rw [drops, State.claims, held]
    rfl

namespace LeasesRemoved

theorem refl (s : State) : LeasesRemoved s [] s where
  frame := rfl
  directory := (List.map_id'' (fun r => by simp [State.dropHolders]) s.directory).symm
  lease i := by simp
  clock i := by simp

theorem trans {slots more : List LeaseSlot} (h : LeasesRemoved s slots t) (k : LeasesRemoved t more u) :
    LeasesRemoved s (slots ++ more) u where
  frame := by
    rw [k.frame, h.frame]
  directory := by
    rw [k.directory, h.directory, List.map_map]
    refine List.map_congr_left fun r _ => congrArg (fun q => ({ r with holders := q } : Record)) ?_
    refine List.filter_filter.trans (List.filter_congr fun x _ => ?_)
    rw [State.claims, h.lease, State.claims, State.dropHolders]
    cases first : slots.contains x.slot <;> cases later : more.contains x.slot <;> simp_all
  lease i := by
    rw [k.lease, h.lease]
    by_cases first : i ∈ slots <;> by_cases later : i ∈ more <;> simp [first, later]
  clock i := by
    rw [k.clock, h.clock, h.lease]
    by_cases first : i ∈ slots <;> by_cases later : i ∈ more <;> simp [first, later]

theorem single (s : State) (i : LeaseSlot) : LeasesRemoved s [i] (s.removeLease i) where
  frame := by
    rw [s.removeLease_frame i]
  directory := s.directory_removeLease i
  lease j := by
    rw [State.lease_removeLease]
    simp
  clock j := by
    rw [State.removeLease_eq]
    cases held : s.lease i with
    | none => by_cases same : j = i <;> simp [same, held]
    | some x =>
      by_cases same : j = i
      · subst same
        simp [held, Countdown.stopped]
      · have apart : i.val ≠ j.val := fun e => same (Fin.ext e.symm)
        simp [same, apart]

theorem removeLeases (slots : List LeaseSlot) (s : State) : LeasesRemoved s slots (s.removeLeases slots) := by
  induction slots generalizing s with
  | nil => exact .refl s
  | cons i rest ih => exact (single s i).trans (ih (s.removeLease i))

end LeasesRemoved

/-! ### The tables (R182) -/

/-- The slot holds an ACTIVE lease. -/
def State.activeAt (s : State) (i : LeaseSlot) : Bool := (s.lease i).any fun x => x.state == .active

theorem State.mem_activeLeases_true {i : LeaseSlot} :
    i ∈ s.activeLeases (fun _ _ => true) ↔ s.activeAt i = true := by
  simp [State.activeLeases, State.activeAt]

theorem State.isSome_of_activeAt {i : LeaseSlot} (active : s.activeAt i = true) : (s.lease i).isSome = true := by
  cases held : s.lease i with
  | some => rfl
  | none => simp [State.activeAt, held] at active

theorem CreationLists.liveWaits_true (lists : CreationLists s) : s.liveWaits (fun _ => true) = s.creation := by
  refine List.filter_eq_self.2 fun w listed => ?_
  obtain ⟨x, live⟩ := Option.isSome_iff_exists.1 ((lists.live w).1 listed)
  rw [live]
  rfl

/-- The record as CLEAR leaves it, before retirement. -/
def State.clearedRecord (s : State) (r : Record) : Record :=
  { r with
    holders := r.holders.filter fun h =>
      !((s.lease h.slot).any fun x => x.state == .active && (tagsOf x.set).contains r.tag)
    queue := r.queue.filter fun w => !s.asksFor r.tag w }

/-- What the removals of CLEAR leave. -/
structure TablesCleared (s t : State) : Prop where
  frame : t = { s with
    directory := s.directory.map s.clearedRecord, leases := t.leases, waits := t.waits, creation := []
    leaseClock := t.leaseClock, waitClock := t.waitClock }
  lease : ∀ i, t.lease i = if s.activeAt i then none else s.lease i
  leaseClock : ∀ i : LeaseSlot, t.leaseClock[i]
    = if s.activeAt i then s.leaseClock[i].stopped else s.leaseClock[i]
  wait : ∀ w, t.wait w = none
  waitClock : ∀ w : WaitSlot, t.waitClock[w]
    = if (s.wait w).isSome = true then s.waitClock[w].stopped else s.waitClock[w]

theorem State.dropHolders_activeLeases (s : State) (r : Record) :
    s.dropHolders (s.activeLeases fun _ _ => true) r = { r with holders := r.holders.filter fun h =>
      !((s.lease h.slot).any fun x => x.state == .active && (tagsOf x.set).contains r.tag) } := by
  refine congrArg (fun q => ({ r with holders := q } : Record)) (List.filter_congr fun h _ => ?_)
  have listed : (s.activeLeases fun _ _ => true).contains h.slot = s.activeAt h.slot := by
    rw [Bool.eq_iff_iff, List.contains_iff_mem, State.mem_activeLeases_true]
  rw [listed, State.activeAt, State.claims]
  cases s.lease h.slot <;> rfl

/-- The removals of CLEAR post nothing. -/
theorem State.clearTables_notices (s : State) : s.clearTables.notices = s.notices := by
  refine List.foldlRecOn (motive := fun t => t.notices = s.notices) _ State.removeWait ?_ fun t same w _ => ?_
  · rw [(LeasesRemoved.removeLeases _ s).frame]
  · rw [t.removeWait_fields w]
    exact same

theorem State.tablesCleared (lists : CreationLists s) : TablesCleared s s.clearTables := by
  let u := s.removeLeases (s.activeLeases fun _ _ => true)
  have leases : LeasesRemoved s (s.activeLeases fun _ _ => true) u := .removeLeases _ s
  have creation : u.creation = s.creation := by rw [leases.frame]
  have waits : u.waits = s.waits := by rw [leases.frame]
  have waitClock : u.waitClock = s.waitClock := by rw [leases.frame]
  have wait (w : WaitSlot) : u.wait w = s.wait w := congrArg (fun v => v[w]) waits
  have still : CreationLists u := lists.congr creation waits
  have cleared : WaitsRemoved u u.creation s.clearTables := by
    rw [State.clearTables, lists.liveWaits_true, ← creation]
    exact .foldl WaitsRemoved.single u.creation u
  have directory : s.clearTables.directory = s.directory.map s.clearedRecord := by
    rw [cleared.directory, leases.directory, List.map_map]
    refine List.map_congr_left fun r _ => ?_
    rw [Function.comp_apply, WaitsRemoved.dropWaiters_of_all still, State.dropHolders_activeLeases]
    simp only [State.asksFor, wait]
    rfl
  refine ⟨?_, fun i => ?_, fun i => ?_, cleared.wait_of_all still, fun w => ?_⟩
  · have held : s.clearTables.leases = u.leases := by rw [cleared.frame]
    have clock : s.clearTables.leaseClock = u.leaseClock := by rw [cleared.frame]
    have notices : s.clearTables.notices = s.notices := s.clearTables_notices
    have frame := cleared.frame
    rw [leases.frame] at frame
    rw [← directory, ← cleared.creation_of_all still, held, clock, ← notices]
    exact frame
  · have same : s.clearTables.lease i = u.lease i := by rw [cleared.frame]; rfl
    rw [same, leases.lease]
    simp only [State.mem_activeLeases_true]
  · have same : s.clearTables.leaseClock = u.leaseClock := by rw [cleared.frame]
    rw [same, leases.clock]
    refine if_congr ?_ rfl rfl
    rw [State.mem_activeLeases_true]
    exact and_iff_left_of_imp State.isSome_of_activeAt
  · rw [cleared.clock_of_all still, wait, waitClock]

/-! ### The notice queues (R140, R183) -/

/-- CLEARED stands alone in the emptied queue, which has room for it. -/
theorem State.clearNotices_eq (client : Client) (s : State) (l : Link) :
    s.clearNotices client l = (s.setLink l { s.link l with receiver := (s.link l).receiver.loseHead }).setNotices l
      ⟨[.cleared client], 0, (s.noticeQueue l).lost, false⟩ := by
  cases l <;> rfl

/-- CLEARED is posted to the links listed, and nothing but links and notice queues changes (R183). -/
structure Cleared (client : Client) (ls : List Link) (s t : State) : Prop where
  frame : t = { s with links := t.links, notices := t.notices }
  link : ∀ k, ∃ r, t.link k = { s.link k with receiver := r }
  queue : ∀ k, t.noticeQueue k
    = if k ∈ ls then ⟨[.cleared client], 0, (s.noticeQueue k).lost, false⟩ else s.noticeQueue k

theorem State.cleared_notices (client : Client) (s : State) (l : Link) :
    Cleared client [l] s (s.clearNotices client l) := by
  rw [State.clearNotices_eq]
  refine ⟨rfl, fun k => ?_, fun k => ?_⟩
  · change ∃ r, (s.setLink l _).link k = { s.link k with receiver := r }
    rw [State.link_setLink]
    by_cases own : k = l
    · exact ⟨_, by rw [if_pos own, own]⟩
    · exact ⟨_, if_neg own⟩
  · change (s.setNotices l _).noticeQueue k = _
    rw [State.noticeQueue_setNotices]
    by_cases own : k = l <;> simp [own]

theorem Cleared.foldl (client : Client) (ls : List Link) (s : State) :
    Cleared client ls s (ls.foldl (State.clearNotices client) s) := by
  induction ls generalizing s with
  | nil => exact ⟨rfl, fun k => ⟨_, rfl⟩, fun k => rfl⟩
  | cons l rest ih =>
    have first := s.cleared_notices client l
    have later := ih (s.clearNotices client l)
    refine ⟨?_, fun k => ?_, fun k => ?_⟩
    · rw [List.foldl_cons, later.frame, first.frame]
    · obtain ⟨r, link⟩ := later.link k
      obtain ⟨q, before⟩ := first.link k
      exact ⟨r, by rw [List.foldl_cons, link, before]⟩
    · rw [List.foldl_cons, later.queue, first.queue]
      by_cases own : k = l <;> by_cases listed : k ∈ rest <;> simp [own, listed]

/-! ### The row -/

/-- A pass over no wait does nothing. -/
theorem State.settleTables_of_no_wait (none : s.creation = []) : s.settleTables true = s.retire := by
  have pass : s.promotionPass = s := by rw [State.promotionPass, none]; rfl
  rw [State.settleTables, if_pos rfl, pass]

theorem State.length_activeLeases (s : State) :
    (s.activeLeases fun _ _ => true).length = (List.finRange 256).countP s.activeAt := by
  rw [List.countP_eq_length_filter]
  refine congrArg List.length (List.filter_congr fun i _ => ?_)
  unfold State.activeAt
  cases s.lease i <;> simp

/-- The state as CLEAR leaves it before retirement (R183). -/
def State.clearAll (s : State) (client : Client) : State :=
  [Link.a, .b, .c, .d].foldl (State.clearNotices client) s.clearTables

theorem State.clearAll_frame (lists : CreationLists s) (client : Client) :
    s.clearAll client = { s with
      links := (s.clearAll client).links, notices := (s.clearAll client).notices
      directory := s.directory.map s.clearedRecord
      leases := s.clearTables.leases, waits := s.clearTables.waits, creation := []
      leaseClock := s.clearTables.leaseClock, waitClock := s.clearTables.waitClock } := by
  have posted : Cleared client [.a, .b, .c, .d] s.clearTables (s.clearAll client) := .foldl client _ _
  have frame := posted.frame
  rw [(State.tablesCleared lists).frame] at frame
  exact frame

theorem State.clearAll_queues (lists : CreationLists s) (client : Client) (l : Link) :
    (∃ r, (s.clearAll client).link l = { s.link l with receiver := r })
      ∧ (s.clearAll client).noticeQueue l = ⟨[.cleared client], 0, (s.noticeQueue l).lost, false⟩ := by
  have posted : Cleared client [.a, .b, .c, .d] s.clearTables (s.clearAll client) := .foldl client _ _
  have links : s.clearTables.link l = s.link l := by rw [(State.tablesCleared lists).frame]; rfl
  have notices : s.clearTables.noticeQueue l = s.noticeQueue l := by
    rw [(State.tablesCleared lists).frame]
    rfl
  have listed : l ∈ [Link.a, .b, .c, .d] := by cases l <;> simp
  exact ⟨links ▸ posted.link l, notices ▸ (posted.queue l).trans (if_pos listed)⟩

theorem ruleClear_of_quiet (lists : CreationLists s) (quiet : s.pinOps = []) (o : Owner) (p : List Byte) :
    ruleClear s o p = ((s.clearAll o.client).retire,
      .done (.removed ((List.finRange 256).countP s.activeAt) s.creation.length)) := by
  have none : (s.clearAll o.client).creation = [] := by rw [State.clearAll_frame lists]
  have free : ¬ (!s.pinOps.isEmpty) = true := by simp [quiet]
  rw [ruleClear, if_neg free, State.length_activeLeases, lists.liveWaits_true,
    ← State.settleTables_of_no_wait none]
  rfl

/-- Settles O43: the removals, then the four notice queues, then retirement. -/
theorem clearLeavesThePinsAlone : Obligations.ClearLeavesThePinsAlone := by
  intro s seq client loaded lists taken active
  have served : exec .clear s = .next (s.serveRequest 0x45 ruleClear .toItsEnd) := rfl
  rw [served, State.serveRequest_of_serving ruleClear taken loaded rfl (fun _ => rfl)]
  refine ⟨fun busy => ?_, fun quiet => ?_⟩
  · have refused : (!s.pinOps.isEmpty) = true := by simpa using busy
    rw [ruleClear, if_pos refused]
    rfl
  have tables := State.tablesCleared lists
  have frame := State.clearAll_frame lists client
  have directory : (s.clearAll client).retire.directory
      = (s.directory.map s.clearedRecord).filter fun r => !r.isEmpty := by
    rw [State.retire, frame]
    rfl
  have leases : (s.clearAll client).leases = s.clearTables.leases := by rw [frame]
  have waits : (s.clearAll client).waits = s.clearTables.waits := by rw [frame]
  have leaseClock : (s.clearAll client).leaseClock = s.clearTables.leaseClock := by rw [frame]
  have waitClock : (s.clearAll client).waitClock = s.clearTables.waitClock := by rw [frame]
  refine ⟨(s.clearAll client).retire, ?_, ?_, fun l => (State.clearAll_queues lists client l).1,
    fun l => (State.clearAll_queues lists client l).2, fun i => ⟨?_, ?_⟩, fun w => ⟨?_, ?_⟩, directory,
    fun law r mem => ?_⟩
  · rw [ruleClear_of_quiet lists quiet]
    rfl
  · rw [directory, State.retire, frame]
    rfl
  · exact (congrArg (fun v => v[i]) leases).trans (tables.lease i)
  · exact (congrArg (fun v => v[i]) leaseClock).trans (tables.leaseClock i)
  · exact (congrArg (fun v => v[w]) waits).trans (tables.wait w)
  · exact (congrArg (fun v => v[w]) waitClock).trans (tables.waitClock w)
  · rw [directory] at mem
    obtain ⟨q, stood, rfl⟩ := List.mem_map.1 (List.mem_filter.1 mem).1
    exact WaitsRemoved.queue_of_all law stood

end
end Sys2Proof.Machine
end

section
/-! PROOFS. The promotion pass: its steps, and what it leaves ungranted (R49, R52 to R55, R62). -/

namespace Sys2Proof.Machine

section
variable {s t : State} {w v : WaitSlot} {x : Wait} {i : LeaseSlot} {done rest : List WaitSlot}

/-! ### The grant rule (R49) -/

/-- The wait stands first, and compatible, on every tag of its set. -/
def State.meets (s : State) (w : WaitSlot) (x : Wait) : Bool := s.standsFirst w x.set && s.admitsAll x.set

theorem State.standsFirst_iff {set : List Entry} :
    s.standsFirst w set = true ↔ ∀ e ∈ set, (s.view e.tag).queue.head? = some w := by
  simp [State.standsFirst]

theorem State.grantable_eq_false (ends : s.meets w x = false ∨ s.freeLease? = none ∨ s.tokens.state ≠ .ready) :
    s.grantable w x = false := by
  unfold State.grantable
  rcases ends with passed | full | unready
  · rw [State.meets] at passed
    rw [passed]
    rfl
  · simp [full]
  · simp [unready]

/-- A demand makes no unit READY (R86). -/
theorem State.demandToken_unready (unready : s.tokens.state ≠ .ready) : s.demandToken.tokens.state ≠ .ready := by
  by_cases unarmed : s.tokens.state = .unarmed
  · rw [State.demandToken_of_unarmed unarmed, State.requestAdvance_tokens]
    nofun
  · rwa [State.demandToken_of_armed unarmed]

theorem State.freeLease?_of_full (full : ∀ i, s.lease i ≠ none) : s.freeLease? = none := by
  refine List.find?_eq_none.2 fun i _ => ?_
  simpa using full i

/-! ### The steps of the scan (R53, R54, R62) -/

theorem State.scan_of_gone (gone : s.wait w = none) : State.scan (w :: rest) s = State.scan rest s := by
  simp only [State.scan, gone]

theorem State.scan_of_passed (live : s.wait w = some x) (passed : s.meets w x = false) :
    State.scan (w :: rest) s = State.scan rest s := by
  rw [State.meets] at passed
  rw [State.scan_cons s w rest x live, passed]
  rfl

/-- What the scan does with a wait that meets the rule of first and compatible. -/
theorem State.scan_of_meets (live : s.wait w = some x) (meets : s.meets w x = true) :
    (s.freeLease? = none → State.scan (w :: rest) s = s)
    ∧ ∀ i, s.freeLease? = some i →
      (s.tokens.state ≠ .ready → State.scan (w :: rest) s = s.demandToken)
      ∧ (s.tokens.state = .ready → s.tokens.issue.state ≠ .exhausted →
        State.scan (w :: rest) s = State.scan rest (s.grantWait w x i))
      ∧ (s.tokens.state = .ready → s.tokens.issue.state = .exhausted →
        State.scan (w :: rest) s = (s.grantWait w x i).abortWaits .exhausted) := by
  rw [State.meets] at meets
  rw [State.scan_cons s w rest x live, if_pos meets]
  refine ⟨fun full => by rw [full], fun i free => ?_⟩
  simp only [free, State.grantWait_tokens]
  exact ⟨fun unready => if_neg unready, fun ready more => by rw [if_pos ready, if_neg more],
    fun ready last => by rw [if_pos ready, if_pos last]⟩

/-! ### What a grant leaves of the waits passed over -/

/-- A holder that joins stands behind those there were (R4). -/
theorem State.holders_prefix_joinHolders {token : Token} {set : List Entry} (sorted : s.sorted) (tag : Tag) :
    (s.view tag).holders <+: ((s.joinHolders i token set).view tag).holders := by
  induction set generalizing s with
  | nil => exact List.prefix_rfl
  | cons e later ih =>
    let f (r : Record) : Record := { r with holders := r.holders ++ [⟨i, e.mode⟩], lastToken := token }
    let u := s.setDirectory (alterRecord e.tag f s.directory)
    have first : u.view tag = if tag = e.tag then f (s.view tag) else s.view tag :=
      State.view_alterRecord (f := f) (fun _ => rfl) sorted rfl tag
    have joined : (s.view tag).holders <+: (u.view tag).holders := by
      rw [first]
      split
      · exact List.prefix_append _ _
      · exact List.prefix_rfl
    exact joined.trans (ih (s := u) (State.sorted_alterRecord (f := f) (fun _ => rfl) sorted rfl))

theorem Record.admits_of_prefix {r q : Record} {m : Mode} (more : r.holders <+: q.holders)
    (admits : q.admits m = true) : r.admits m = true := by
  cases m with
  | shared => exact List.all_eq_true.2 fun h mem => List.all_eq_true.1 admits h (more.subset mem)
  | exclusive =>
    have none : q.holders = [] := List.isEmpty_iff.1 admits
    exact List.isEmpty_iff.2 (List.prefix_nil.1 (none ▸ more))

/-- After a grant no tag admits more than before. -/
theorem State.admitsAll_of_grantWait (sorted : s.sorted) {set : List Entry}
    (admits : (s.grantWait w x i).admitsAll set = true) : s.admitsAll set = true := by
  refine List.all_eq_true.2 fun e mem => ?_
  obtain ⟨p, removed⟩ := s.view_removeWait w e.tag
  have before : ((s.removeWait w).view e.tag).holders = (s.view e.tag).holders := by rw [removed]
  refine Record.admits_of_prefix (before ▸ ?_) (List.all_eq_true.1 admits e mem)
  exact State.holders_prefix_joinHolders (s.sorted_removeWait sorted w) e.tag

theorem QueueLaw.grantWait (h : QueueLaw s) (w : WaitSlot) (x : Wait) (i : LeaseSlot) :
    QueueLaw (s.grantWait w x i) :=
  ((h.removeWait w).grantLease i x.owner x.set x.duration).of_same rfl rfl rfl

theorem State.wait_grantWait (s : State) (w : WaitSlot) (x : Wait) (i : LeaseSlot) (v : WaitSlot) :
    (s.grantWait w x i).wait v = if v = w then none else s.wait v := s.wait_removeWait w v

/-- The wait that is granted leaves the creation order (R50). -/
theorem QueueLaw.creation_grantWait (h : QueueLaw s) (order : s.creation = done ++ w :: rest) (x : Wait)
    (i : LeaseSlot) : (s.grantWait w x i).creation = done ++ rest := by
  have once : (done ++ w :: rest).Nodup := order ▸ h.lists.nodup
  obtain ⟨apart, -⟩ := List.nodup_cons.1 (List.nodup_middle.1 once)
  have kept : (done ++ rest).filter (fun v => v != w) = done ++ rest :=
    List.filter_eq_self.2 fun v mem => bne_iff_ne.2 fun same => apart (same ▸ mem)
  have removed : (s.grantWait w x i).creation = s.creation.filter fun v => v != w :=
    h.lists.creation_removeWait w
  rw [removed, order, List.filter_append, List.filter_cons_of_neg (by simp), ← List.filter_append, kept]

/-- Law 5: the head of a tag's queue is the first wait of the creation order that asks for the tag. -/
theorem QueueLaw.head_of_passed (h : QueueLaw s) (order : s.creation = done ++ rest) {tag : Tag}
    (mem : v ∈ done) (asks : s.asksFor tag v = true) :
    (s.view tag).queue.head? = (done.filter (s.asksFor tag)).head? := by
  obtain ⟨-, -, ordered⟩ := queueLaw_iff.1 h
  have nonempty : done.filter (s.asksFor tag) ≠ [] := List.ne_nil_of_mem (List.mem_filter.2 ⟨mem, asks⟩)
  rw [ordered tag, order, List.filter_append, List.head?_append_of_ne_nil _ nonempty]

theorem State.asksFor_of_entry (live : s.wait v = some x) {e : Entry} (mem : e ∈ x.set) :
    s.asksFor e.tag v = true := by
  rw [State.asksFor, live]
  simpa [tagsOf] using ⟨e, mem, rfl⟩

/-- What stands in a queue before a wait that was passed over stays there when a later wait is granted. -/
theorem QueueLaw.meets_grantWait {y : Wait} (h : QueueLaw s) (order : s.creation = done ++ w :: rest)
    (mem : v ∈ done) (live : s.wait v = some y) (meets : (s.grantWait w x i).meets v y = true) :
    s.meets v y = true := by
  have once := order ▸ h.lists.nodup
  have apart (u : WaitSlot) (passed : u ∈ done) : u ≠ w := by
    rintro rfl
    exact List.disjoint_of_nodup_append once passed List.mem_cons_self
  have same (u : WaitSlot) (passed : u ∈ done) : (s.grantWait w x i).wait u = s.wait u := by
    rw [State.wait_grantWait, if_neg (apart u passed)]
  have later := h.creation_grantWait order x i
  rw [State.meets, Bool.and_eq_true] at meets ⊢
  refine ⟨State.standsFirst_iff.2 fun e entry => ?_, State.admitsAll_of_grantWait h.sorted meets.2⟩
  have asks := State.asksFor_of_entry live entry
  have still := State.asksFor_of_entry ((same v mem).trans live) entry
  have heads : done.filter ((s.grantWait w x i).asksFor e.tag) = done.filter (s.asksFor e.tag) :=
    List.filter_congr fun u passed => by rw [State.asksFor, same u passed, State.asksFor]
  rw [h.head_of_passed order mem asks, ← heads, ← (h.grantWait w x i).head_of_passed later mem still]
  exact State.standsFirst_iff.1 meets.1 e entry

/-! ### The pass (R53) -/

/-- A scan leaves no grantable wait, where the waits before those it scans meet the rule no more. -/
theorem QueueLaw.not_grantable_scan (h : QueueLaw s) (ws : List WaitSlot) (order : s.creation = done ++ ws)
    (passed : ∀ v ∈ done, ∀ x, s.wait v = some x → s.meets v x = false) :
    ∀ v ∈ (State.scan ws s).creation, ∀ x, (State.scan ws s).wait v = some x →
      (State.scan ws s).grantable v x = false := by
  induction ws generalizing s done with
  | nil =>
    intro v listed x live
    rw [State.scan, order, List.append_nil] at listed
    exact State.grantable_eq_false (.inl (passed v listed x live))
  | cons w rest ih =>
    have listed : w ∈ s.creation := order ▸ List.mem_append_right done List.mem_cons_self
    obtain ⟨x, live⟩ := Option.isSome_iff_exists.1 ((h.lists.live w).1 listed)
    cases meets : s.meets w x with
    | false =>
      rw [State.scan_of_passed live meets]
      refine ih h (done := done ++ [w]) (by rw [order, List.append_assoc]; rfl) fun v mem y held => ?_
      rcases List.mem_append.1 mem with before | own
      · exact passed v before y held
      · obtain rfl := List.mem_singleton.1 own
        obtain rfl := Option.some.inj (live.symm.trans held)
        exact meets
    | true =>
      obtain ⟨full, steps⟩ := State.scan_of_meets (rest := rest) live meets
      cases free : s.freeLease? with
      | none =>
        rw [full free]
        exact fun v _ y _ => State.grantable_eq_false (.inr (.inl free))
      | some i =>
        obtain ⟨unready, more, last⟩ := steps i free
        by_cases ready : s.tokens.state = .ready
        · by_cases ended : s.tokens.issue.state = .exhausted
          · have removed : WaitsRemoved (s.grantWait w x i) (s.grantWait w x i).creation
                ((s.grantWait w x i).abortWaits .exhausted) := .foldl (State.removed_abortWait .exhausted) _ _
            rw [last ready ended, removed.creation_of_all (h.grantWait w x i).lists]
            exact fun v none => absurd none List.not_mem_nil
          · rw [more ready ended]
            refine ih (h.grantWait w x i) (h.creation_grantWait order x i) fun v mem y held => ?_
            rw [State.wait_grantWait] at held
            split at held
            · cases held
            · exact Bool.eq_false_iff.2 (mt (h.meets_grantWait order mem held)
                (Bool.eq_false_iff.1 (passed v mem y held)))
        · rw [unready ready]
          exact fun v _ y _ => State.grantable_eq_false (.inr (.inr (State.demandToken_unready ready)))

/-- Settles O59: the scan's steps, and its induction over the creation order. -/
theorem aPassLeavesNoGrantableWait : Obligations.APassLeavesNoGrantableWait := by
  refine ⟨fun s law => law.not_grantable_scan (done := []) s.creation rfl nofun,
    fun s => ⟨rfl, rfl, fun w rest => ⟨State.scan_of_gone, fun x live => ?_⟩⟩⟩
  intro first compatible last
  have isFirst : s.standsFirst w x.set = true ↔ first := State.standsFirst_iff
  have isCompatible : s.admitsAll x.set = true ↔ compatible :=
    List.all_eq_true.trans (forall₂_congr fun _ _ => Record.admits_iff)
  have isMet : s.meets w x = true ↔ first ∧ compatible :=
    (iff_of_eq (Bool.and_eq_true _ _)).trans (and_congr isFirst isCompatible)
  refine ⟨fun missed => State.scan_of_passed live (Bool.eq_false_iff.2 fun meets => ?_),
    fun stands fits => ?_⟩
  · obtain ⟨stands, fits⟩ := isMet.1 meets
    exact missed.elim (absurd stands) (absurd fits)
  obtain ⟨full, steps⟩ := State.scan_of_meets (rest := rest) live (isMet.2 ⟨stands, fits⟩)
  refine ⟨fun taken => full (State.freeLease?_of_full taken), fun i vacant lowest => ?_⟩
  obtain ⟨unready, more, ends⟩ := steps i (State.freeLease?_of_lowest vacant lowest)
  exact ⟨unready, fun ready notLast => more ready (mt (TokenUnit.issue_exhausted_iff ready).1 notLast),
    fun ready isLast => ends ready ((TokenUnit.issue_exhausted_iff ready).2 isLast)⟩

end
end Sys2Proof.Machine
end
